-- ==== Sys2Proof/Word.lean ====
section
/-!
DEFINITION. The widths the spec uses: 8-bit DMEM cells (R60), the 32-bit registers and datapath words (R7, R23), the
64-bit key fold and round keys (R7). Every value is unsigned (R9), so the plain `BitVec` operations are the spec's.
-/

namespace Sys2Proof

/-- One DMEM cell (R60). -/
abbrev Byte := BitVec 8

/-- A register or a datapath word, the spec's u32 (R7, R23). -/
abbrev Word := BitVec 32

/-- The key fold or one round key, the spec's u64 (R7). -/
abbrev DWord := BitVec 64

end Sys2Proof
end

