-- ==== Sys2Proof/Config.lean ====
section
/-!
DEFINITION. What an implementation fixes (the parameters of R8 that some rule reads) and the free values of the spec
(its "draws", 93_implementation_defined.md U2 to U5).
-/

namespace Sys2Proof

/-- The implementation parameters of R8 that a rule depends on. `CORE_BASE`, `CORE_IRQ`, `BUS_PROTOCOL` and `LAT` are not
here: "no rule depends on it". A legal `DMEM_BYTES` is a multiple of 16 from 16 to 65536, so it is stored as the number of
16-byte blocks less one, and an illegal size cannot be written down. -/
structure Params where
  /-- `DMEM_BYTES / 16 - 1`. -/
  dmemBlocks : Fin 4096
  /-- `HEX_ACCEPT_UPPER` (R175). -/
  hexAcceptUpper : Bool
deriving DecidableEq, Repr

/-- `DMEM_BYTES`, the size of DMEM in bytes (R8, R60). -/
def Params.dmemBytes (p : Params) : Nat := 16 * (p.dmemBlocks.val + 1)

/-- The defaults of R8: `DMEM_BYTES` = 4096 and `HEX_ACCEPT_UPPER` = 1 (D4, D25). -/
def Params.default : Params := { dmemBlocks := 255, hexAcceptUpper := true }

/-- The draw of an unspecified byte (R66, R230, R231; U4, U5): one value for each number of the state's draw counter, and
nothing in Lean can say which. Assumption 2 (DESIGN CHOICE). -/
opaque Config.freeByte : Nat → Byte

/-- The draw of an unspecified host read while BUSY = 1 (R240; U2, U3), one value for each number of the draw counter.
Assumption 2 (DESIGN CHOICE). -/
opaque Config.freeWord : Nat → Word

end Sys2Proof
end

