-- ==== Sys2Proof/Syntax.lean ====
section
/-!
DEFINITION. The 13 commands of R82, one constructor for each row of spec/opcode_table.json. Every operand but the round
index is implicit (R81), so only ROUNDF, RND_ENC and RND_DEC carry a field.
-/

namespace Sys2Proof

/-- A command of CORE, with RIDX as the 3 bits cmd[10:8] where the command uses it (R80, R81). -/
inductive Instr where
  /-- NOP (R100). -/
  | nop
  /-- KSCHED (R113). -/
  | ksched
  /-- KCLEAR (R114). -/
  | kclear
  /-- SUBST (R123). -/
  | subst
  /-- ROUNDF r (R124). -/
  | roundf (r : BitVec 3)
  /-- RND_ENC r (R133). -/
  | rndEnc (r : BitVec 3)
  /-- RND_DEC r (R134). -/
  | rndDec (r : BitVec 3)
  /-- BLK_ENC (R135). -/
  | blkEnc
  /-- BLK_DEC (R136). -/
  | blkDec
  /-- ECB_ENC (R153). -/
  | ecbEnc
  /-- ECB_DEC (R154). -/
  | ecbDec
  /-- HEX_ENC (R173). -/
  | hexEnc
  /-- HEX_DEC (R174). -/
  | hexDec
deriving DecidableEq, Repr

end Sys2Proof
end

