-- ==== Sys2Proof/Machine/State.lean ====
section
/-!
DEFINITION. The state of CORE as plain data (10_state.md), the events that drive it (R204), the stops, and the state after
reset (R46).
-/

namespace Sys2Proof.Machine

/-- Why CORE answers a host transaction with BUSERR (R63 to R65). -/
inductive BusErrCause where
  /-- A register-window access of size 1 or 2, or with offset mod 4 ≠ 0 (R63). -/
  | registerAccess
  /-- An unmapped offset (R61, R64, and the unmapped register offsets of R23). -/
  | unmapped
  /-- A DMEM-window access with a mod s ≠ 0 (R65). -/
  | dmemMisaligned
  /-- A DMEM-window access with a + s > `DMEM_BYTES` (R65). -/
  | dmemPastEnd
deriving DecidableEq, Repr

/-- What stops the machine: "A model treats a BUSERR response as a fault of the host program" (R64, D41). Assumption 8
(DEDUCED). -/
inductive Fault where
  /-- Raised by a host transaction that R63, R64 or R65 answer with BUSERR, which changes no state. Safe. -/
  | busErr (cause : BusErrCause)
  /-- Raised by a host transaction whose offset is not below 0x20000, outside the aperture CORE decodes (R61, R62). Safe.
  Assumption 10 (DESIGN CHOICE). -/
  | outsideAperture
deriving DecidableEq, Repr

/-- What has no step. -/
inductive Refusal where
  /-- Raised only by an arm of `exec` whose command has no meaning yet; no arm does. Safe. -/
  | notModelled (mnemonic : String)
  /-- Raised by a host transaction while `rst_n` is low: "Host transactions made while `rst_n` is low are not defined; a
  model gives them no step" (R230, U6). Safe. Assumption 9 (DEDUCED). -/
  | hostTransactionInReset
deriving DecidableEq, Repr

/-- The error codes of R200. The reserved values 0x7 to 0xF have no constructor: they are never written (U9). -/
inductive ErrCode where
  /-- NONE, 0x0. -/
  | noError
  /-- ILLEGAL_CMD, 0x1. -/
  | illegalCmd
  /-- NO_KEY, 0x2. -/
  | noKey
  /-- INVALID_INPUT_LENGTH, 0x3. -/
  | invalidInputLength
  /-- MALFORMED_HEX, 0x4. -/
  | malformedHex
  /-- RANGE, 0x5. -/
  | range
  /-- OVERLAP, 0x6. -/
  | overlap
deriving DecidableEq, Repr

/-- The fields of STATUS (R27). Its reserved bits read 0 and ignore writes, so they hold nothing. -/
structure Status where
  busy : Bool
  done : Bool
  err : Bool
  rkValid : Bool
  ovf : Bool
  errCode : ErrCode
deriving DecidableEq, Repr

/-- The cipher state words (A, B, C, D) (R7, R39). -/
structure Block where
  a : Word
  b : Word
  c : Word
  d : Word
deriving DecidableEq, Repr

/-- The RoundKeySet, "exactly 5 unsigned 64-bit values" (R7, R42). -/
structure RoundKeys where
  rk0 : DWord
  rk1 : DWord
  rk2 : DWord
  rk3 : DWord
  rk4 : DWord
deriving DecidableEq, Repr

/-- The register inputs of a command, sampled at issue (R73). The DMEM bytes it reads are read at completion (R67). -/
structure Inputs where
  srcAddr : Word
  srcLen : Word
  dstAddr : Word
  keyAddr : Word
  keyLen : Word
  blk : Block
  win : Word
  rk : RoundKeys
  rkValid : Bool
deriving DecidableEq, Repr

/-- PEND: "the accepted command word and the operands it reads" (R44). -/
structure Pending where
  word : Word
  inputs : Inputs
deriving DecidableEq, Repr

/-- DMEM: the bytes written and not made unspecified since the last `rst_n`, by rising address. An address with no entry
is unspecified: a read of it is a draw (R66, R230, R231). -/
abbrev Memory := List Host.Cell

/-- The canonical form of DMEM: addresses strictly rising and below `DMEM_BYTES`. An unlisted address reads as no byte at
all, so no entry can equal what an unlisted address reads as. -/
abbrev Memory.wf (size : Nat) (m : Memory) : Prop :=
  m.Pairwise (fun x y => x.1 < y.1) ∧ ∀ c ∈ m, c.1 < size

/-- The registers of R23, the two halves of RKi under their index i. -/
inductive Reg where
  | id
  | version
  | ctrl
  | status
  | cmd
  | srcAddr
  | srcLen
  | dstAddr
  | dstLen
  | keyAddr
  | keyLen
  | blkA
  | blkB
  | blkC
  | blkD
  | win
  | wout
  | kfoldLo
  | kfoldHi
  | rkLo (i : Fin 5)
  | rkHi (i : Fin 5)
deriving DecidableEq, Repr

/-- The sizes of a host transaction: 1, 2 or 4 bytes (R62). -/
inductive AccessSize where
  | one
  | two
  | four
deriving DecidableEq, Repr

/-- A datum of 8·size bits: wdata or rdata (R62). -/
inductive Data where
  | byte (v : Byte)
  | half (v : BitVec 16)
  | word (v : Word)
deriving DecidableEq, Repr

/-- The kind of a transaction with its size, which for a write is that of its wdata (R62). -/
inductive Access where
  | read (size : AccessSize)
  | write (data : Data)
deriving DecidableEq, Repr

/-- A host transaction (offset, size, kind, wdata) (R62). -/
structure Transaction where
  offset : Nat
  access : Access
deriving DecidableEq, Repr

/-- The response OK on the bus target port, with rdata for a read (R22, R62). BUSERR is a `Fault`. -/
inductive Response where
  | read (data : Data)
  | written
deriving DecidableEq, Repr

/-- "CORE's events are host transactions, completions and resets. Each is one atomic step, and the steps form a total
order" (R204). -/
inductive Event where
  /-- A host transaction. -/
  | host (t : Transaction)
  /-- The completion of the command in flight; nothing happens where none is (R92). -/
  | complete
  /-- `rst_n` goes low. -/
  | rstLow
  /-- `rst_n` rises. -/
  | rstHigh
deriving DecidableEq, Repr

/-- The state of CORE, its input pin `rst_n`, and what the model adds to drive it: the parameters, the draw counter, the
events still to come and the last response. -/
structure State where
  /-- The parameters this CORE was built with; no step changes them (R8). Assumption 1 (DESIGN CHOICE). -/
  params : Params
  /-- The level of `rst_n`; true is high, not in reset (R22). Assumption 9 (DEDUCED). -/
  rstN : Bool
  /-- CTRL.IRQ_EN (R26). CTRL's other bits hold nothing. -/
  irqEn : Bool
  /-- STATUS (R27). -/
  status : Status
  /-- CMD, the last accepted command word (R34). -/
  cmd : Word
  /-- SRC_ADDR (R35). -/
  srcAddr : Word
  /-- SRC_LEN (R35). -/
  srcLen : Word
  /-- DST_ADDR (R36). -/
  dstAddr : Word
  /-- DST_LEN (R37). -/
  dstLen : Word
  /-- KEY_ADDR (R38). -/
  keyAddr : Word
  /-- KEY_LEN (R38). -/
  keyLen : Word
  /-- BLK_A to BLK_D (R39). -/
  blk : Block
  /-- WIN (R40). -/
  win : Word
  /-- WOUT (R40). -/
  wout : Word
  /-- KFOLD (R41). -/
  kfold : DWord
  /-- RK0 to RK4 (R42). -/
  rk : RoundKeys
  /-- PEND, the command in flight (R44). -/
  pend : Option Pending
  /-- The level of the `irq` output (R44, R210). Assumption 11 (DEDUCED). -/
  irq : Bool
  /-- DMEM (R60). -/
  dmem : Memory
  /-- How many draws have been taken; the model's own field. Assumption 2 (DESIGN CHOICE). -/
  draws : Nat
  /-- The events to come, the next one first; the model's own field. Assumption 3 (DESIGN CHOICE). -/
  events : List Event
  /-- The response to the last host transaction, none before the first; the model's own field. Assumption 4 (DESIGN CHOICE). -/
  response : Option Response
deriving DecidableEq, Repr

/-- STATUS = 0x00000000 (R46). -/
def Status.reset : Status :=
  { busy := false, done := false, err := false, rkValid := false, ovf := false, errCode := .noError }

/-- BLK_A to BLK_D = 0 (R46). -/
def Block.zero : Block := { a := 0, b := 0, c := 0, d := 0 }

/-- RK0 to RK4 = 0 (R46). -/
def RoundKeys.zero : RoundKeys := { rk0 := 0, rk1 := 0, rk2 := 0, rk3 := 0, rk4 := 0 }

/-- The machine right after `rst_n` rises (R46, R230): every register 0 (ID and VERSION are constants), PEND empty, `irq`
low, every DMEM byte unspecified, and no event to come. -/
def State.reset : State where
  params := Params.default
  rstN := true
  irqEn := false
  status := Status.reset
  cmd := 0
  srcAddr := 0
  srcLen := 0
  dstAddr := 0
  dstLen := 0
  keyAddr := 0
  keyLen := 0
  blk := Block.zero
  win := 0
  wout := 0
  kfold := 0
  rk := RoundKeys.zero
  pend := none
  irq := false
  dmem := []
  draws := 0
  events := []
  response := none

end Sys2Proof.Machine
end

