-- ==== Sys2Proof/Machine/Flags.lean ====
section
/-!
DEFINITION. STATUS, CTRL and the interrupt line: the register views of the flags (R26, R27), write-1-to-clear, the level of
`irq` (R210), and the flag writes of issue, completion and failure (R91, R93, R203).
-/

namespace Sys2Proof.Machine

/-- The code of R200. -/
def ErrCode.toBits : ErrCode → BitVec 4
  | .noError => 0x0
  | .illegalCmd => 0x1
  | .noKey => 0x2
  | .invalidInputLength => 0x3
  | .malformedHex => 0x4
  | .range => 0x5
  | .overlap => 0x6

/-- A flag as a bit of a register. -/
def bit (b : Bool) : BitVec 1 := BitVec.ofBool b

/-- STATUS as the host reads it (R27): reserved bits 31:12 and 7:5 read 0. -/
def Status.toWord (st : Status) : Word :=
  (0#20 ++ st.errCode.toBits ++ 0#3 ++ bit st.ovf ++ bit st.rkValid ++ bit st.err ++ bit st.done ++ bit st.busy : BitVec 32)

/-- CTRL as the host reads it (R26): SRST and the reserved bits read 0. -/
def ctrlWord (irqEn : Bool) : Word := (0#31 ++ bit irqEn : BitVec 32)

/-- `irq = CTRL.IRQ_EN AND (STATUS.DONE OR STATUS.ERR)` (R210). -/
def irqLevel (irqEn : Bool) (st : Status) : Bool := irqEn && (st.done || st.err)

/-- A host write of v to STATUS, field by field (R27): bits 1, 2 and 4 clear DONE, ERR with ERRCODE, and OVF. -/
def Status.writeOneToClear (st : Status) (v : Word) : Status :=
  { st with
    done := st.done && !v.getLsbD 1
    err := st.err && !v.getLsbD 2
    errCode := if v.getLsbD 2 then .noError else st.errCode
    ovf := st.ovf && !v.getLsbD 4 }

/-- The flag writes of an issue (R91). -/
def Status.onIssue (st : Status) : Status := { st with busy := true, done := false }

/-- The flag writes of every completion (R93). -/
def Status.onCompletion (st : Status) : Status := { st with busy := false, done := true }

/-- The flag writes a failure adds (R203): the new code replaces an old one. -/
def Status.onFailure (st : Status) (code : ErrCode) : Status := { st with err := true, errCode := code }

/-- Every step that writes STATUS recomputes `irq` (R210). -/
def State.withStatus (s : State) (st : Status) : State :=
  { s with status := st, irq := irqLevel s.irqEn st }

/-- Every step that writes CTRL recomputes `irq` (R210). -/
def State.withIrqEn (s : State) (en : Bool) : State :=
  { s with irqEn := en, irq := irqLevel en s.status }

/-- A write refused while BUSY = 1 sets OVF (R32, R240). -/
def State.overrun (s : State) : State := s.withStatus { s.status with ovf := true }

end Sys2Proof.Machine
end

