-- ==== Sys2Proof/Machine/Operands.lean ====
section
/-!
DEFINITION. The operands of commands: byte order (R11, R68), the inputs sampled at issue (R73), the round key RIDX selects
(R81), and the regions of the memory commands with their checks (R95 to R98).
-/

namespace Sys2Proof.Machine

/-- be32 of R11: b0 is the most significant byte. -/
def be32 (b0 b1 b2 b3 : Byte) : Word := (b0 ++ b1 ++ b2 ++ b3 : BitVec 32)

/-- bytes_be32 of R11, most significant byte first. -/
def bytesBe32 (w : Word) : List Byte :=
  [w.extractLsb' 24 8, w.extractLsb' 16 8, w.extractLsb' 8 8, w.extractLsb' 0 8]

/-- The four big-endian words of a 16-byte block, given as its bytes (R68). -/
def Block.ofBytes (c : List Byte) : Block where
  a := be32 (c.getD 0 0) (c.getD 1 0) (c.getD 2 0) (c.getD 3 0)
  b := be32 (c.getD 4 0) (c.getD 5 0) (c.getD 6 0) (c.getD 7 0)
  c := be32 (c.getD 8 0) (c.getD 9 0) (c.getD 10 0) (c.getD 11 0)
  d := be32 (c.getD 12 0) (c.getD 13 0) (c.getD 14 0) (c.getD 15 0)

/-- The 16 bytes of a block (R39, R68). -/
def Block.toBytes (s : Block) : List Byte :=
  bytesBe32 s.a ++ bytesBe32 s.b ++ bytesBe32 s.c ++ bytesBe32 s.d

/-- The register inputs of R73 as they stand in the registers. -/
def State.sample (s : State) : Inputs where
  srcAddr := s.srcAddr
  srcLen := s.srcLen
  dstAddr := s.dstAddr
  keyAddr := s.keyAddr
  keyLen := s.keyLen
  blk := s.blk
  win := s.win
  rk := s.rk
  rkValid := s.status.rkValid

/-- The inputs a command computes with: PEND's (R93), or, in a state with nothing in flight, those an issue would sample
there. Assumption 5 (DESIGN CHOICE). -/
def State.operands (s : State) : Inputs :=
  match s.pend with
  | some p => p.inputs
  | none => s.sample

/-- The round keys in the order RK0 to RK4 (R42). -/
def RoundKeys.toList (k : RoundKeys) : List DWord := [k.rk0, k.rk1, k.rk2, k.rk3, k.rk4]

/-- RKi for i = 0..4. -/
def RoundKeys.get (k : RoundKeys) (i : Fin 5) : DWord :=
  match i with
  | 0 => k.rk0
  | 1 => k.rk1
  | 2 => k.rk2
  | 3 => k.rk3
  | 4 => k.rk4

/-- The round key that RIDX selects; none for RIDX 5 to 7 (R81, R83). -/
def RoundKeys.select (k : RoundKeys) (r : BitVec 3) : Option DWord := k.toList[r.toNat]?

/-- "Region (a, l): the DMEM addresses a, …, a+l−1" (R14), in exact integers (R95). -/
structure Region where
  addr : Nat
  len : Nat
deriving DecidableEq, Repr

/-- Region validity (R95): an empty region is valid at any address. -/
def Region.valid (p : Params) (g : Region) : Bool :=
  decide (g.len = 0) || decide (g.addr + g.len ≤ p.dmemBytes)

/-- Overlap of two regions (R98). -/
def Region.overlaps (g h : Region) : Bool :=
  decide (0 < g.len) && decide (0 < h.len) && decide (g.addr < h.addr + h.len) && decide (h.addr < g.addr + g.len)

/-- The key region (KEY_ADDR, KEY_LEN) (R38). -/
def Inputs.key (x : Inputs) : Region := { addr := x.keyAddr.toNat, len := x.keyLen.toNat }

/-- The source region (SRC_ADDR, SRC_LEN) (R35). -/
def Inputs.src (x : Inputs) : Region := { addr := x.srcAddr.toNat, len := x.srcLen.toNat }

/-- The destination region (DST_ADDR, outlen) (R36). -/
def Inputs.dst (x : Inputs) (outlen : Nat) : Region := { addr := x.dstAddr.toNat, len := outlen }

/-- `16 × ceil(n / 16)`, the outlen of ECB_ENC (R97). -/
def paddedLen (n : Nat) : Nat := 16 * ((n + 15) / 16)

/-- outlen of each memory command (R97); none for a command that writes no region. For an ECB_DEC or HEX_DEC whose length
form is wrong it is n or n / 2 rounded down, which only R231 reads. Assumption 7 (DEDUCED). -/
def outlenOf (i : Instr) (n : Nat) : Option Nat :=
  match i with
  | .ecbEnc => some (paddedLen n)
  | .ecbDec => some n
  | .hexEnc => some (2 * n)
  | .hexDec => some (n / 2)
  | .nop => none
  | .ksched => none
  | .kclear => none
  | .subst => none
  | .roundf _ => none
  | .rndEnc _ => none
  | .rndDec _ => none
  | .blkEnc => none
  | .blkDec => none

end Sys2Proof.Machine
end

