-- ==== Sys2Proof/Machine/Ops.lean ====
section
/-!
DEFINITION. The named operations over DMEM and the registers that the meanings share: reading and writing DMEM with draws
for unspecified bytes (R66, R67), issue (R91), completion (R93), recording a failure (R203), and the check order (R202).
-/

namespace Sys2Proof.Machine

/-- The byte that stands at an address, none where it is unspecified. This is the one definition of what an unlisted
address reads as. Assumption 6 (DEDUCED). -/
def Memory.get? : Memory → Nat → Option Byte
  | [], _ => none
  | (b, v) :: m, a => if b = a then some v else Memory.get? m a

/-- Write one byte, keeping the addresses in rising order. -/
def Memory.set : Memory → Nat → Byte → Memory
  | [], a, v => [(a, v)]
  | (b, w) :: m, a, v =>
    if a < b then (a, v) :: (b, w) :: m
    else if a = b then (a, v) :: m
    else (b, w) :: Memory.set m a v

/-- MemWrite of R11: the bytes at a, a+1, and so on. -/
def Memory.writeBytes : Memory → Nat → List Byte → Memory
  | m, _, [] => m
  | m, a, b :: bs => Memory.writeBytes (m.set a b) (a + 1) bs

/-- The bytes of a region become unspecified (R231). -/
def Memory.forget (m : Memory) (a n : Nat) : Memory :=
  m.filter (fun c => !(decide (a ≤ c.1) && decide (c.1 < a + n)))

/-- One read of a byte, with the draw counter: an unspecified byte reads as a fresh draw (R66). -/
def Memory.readByte (m : Memory) (a draws : Nat) : Byte × Nat :=
  match m.get? a with
  | some v => (v, draws)
  | none => (Config.freeByte draws, draws + 1)

/-- MemRead of R11: n bytes from a in ascending address order (R69), threading the draw counter. -/
def Memory.readBytes (m : Memory) : (n a draws : Nat) → List Byte × Nat
  | 0, _, draws => ([], draws)
  | n + 1, a, draws =>
    let (b, draws') := m.readByte a draws
    let (bs, draws'') := Memory.readBytes m n (a + 1) draws'
    (b :: bs, draws'')

/-- A read of a region by a command or of a few bytes by the host: only the draw counter can change (R71). -/
def State.memRead (s : State) (g : Region) : List Byte × State :=
  let (bs, draws') := s.dmem.readBytes g.len g.addr s.draws
  (bs, { s with draws := draws' })

/-- A write of bytes to DMEM from an address on. -/
def State.memWrite (s : State) (a : Nat) (bs : List Byte) : State :=
  { s with dmem := s.dmem.writeBytes a bs }

/-- BLK_A to BLK_D (R39). -/
def State.withBlk (s : State) (b : Block) : State := { s with blk := b }

/-- WOUT (R40). -/
def State.withWout (s : State) (w : Word) : State := { s with wout := w }

/-- DST_LEN (R37): lengths that passed the range check are at most 65536. -/
def State.withDstLen (s : State) (n : Nat) : State := { s with dstLen := BitVec.ofNat 32 n }

/-- The key registers and RK_VALID together (R113). -/
def State.loadKey (s : State) (fold : DWord) (k : RoundKeys) : State :=
  { s with kfold := fold, rk := k }.withStatus { s.status with rkValid := true }

/-- KFOLD, RK0 to RK4 and RK_VALID cleared (R114, R156). -/
def State.clearKey (s : State) : State :=
  { s with kfold := 0, rk := RoundKeys.zero }.withStatus { s.status with rkValid := false }

/-- Issue of a command word (R91): CMD, PEND with the inputs of R73, BUSY and DONE. -/
def State.issue (s : State) (w : Word) : State :=
  { s with cmd := w, pend := some { word := w, inputs := s.sample } }.withStatus s.status.onIssue

/-- The lifecycle writes of a completion (R93), after a success's effects. -/
def State.complete (s : State) : State :=
  { s with pend := none }.withStatus s.status.onCompletion

/-- CORE's one exception: a failed command records its code and completes, and no other state changes (R99, R203). There is
no trap entry, no saved state and no return; the host acknowledges through STATUS (R207, `Status.writeOneToClear`). -/
def State.fail (s : State) (code : ErrCode) : State :=
  (s.withStatus (s.status.onFailure code)).complete

/-- The first check that fails, in the order of R202, gives the one reported code. -/
def firstFailure : List (Bool × ErrCode) → Option ErrCode
  | [] => none
  | (ok, code) :: rest => if ok then firstFailure rest else some code

/-- A command: its checks in order, then its effects, which end in `State.complete` (R93, R99, R202). The effects are not
evaluated where a check fails: "a command reads DMEM only after every register-only check has passed" (R202). -/
def State.perform (s : State) (checks : List (Bool × ErrCode)) (effects : Unit → State) :
    Host.Outcome State Fault Refusal :=
  match firstFailure checks with
  | some code => .next (s.fail code)
  | none => .next (effects ())

end Sys2Proof.Machine
end

