-- ==== Sys2Proof/Machine/Substitution.lean ====
section
/-!
DEFINITION. The 4-bit substitution box, `substitute`, the round function F, SUBST and ROUNDF (42_substitution_round.md).
-/

namespace Sys2Proof.Machine

/-- The S-box table (R120). -/
def sboxTable : List (BitVec 4) := [3, 15, 14, 1, 0, 7, 5, 10, 4, 12, 11, 9, 2, 8, 13, 6]

/-- S[v] (R120). -/
def sbox (v : BitVec 4) : BitVec 4 := sboxTable.getD v.toNat 0

/-- substitute (R121): lane k is bits 4k+3:4k, each lane replaced in place. -/
def substitute (w : Word) : Word :=
  (List.range 8).foldl (fun acc k => acc ||| ((sbox (w.extractLsb' (4 * k) 4)).setWidth 32 <<< (4 * k))) 0

/-- rotl32 (R10), for 0 < k < 32. -/
def rotl32 (a : Word) (k : Nat) : Word := (a <<< k) ||| (a >>> (32 - k))

/-- rk32: "the low 32 bits of a round key" (R13). -/
def rk32 (rk : DWord) : Word := rk.setWidth 32

/-- The round function F (R122). -/
def roundF (x : Word) (rk : DWord) : Word :=
  let masked := rotl32 x 4 &&& rk32 rk
  substitute masked ||| rk32 rk

/-- What ROUNDF, RND_ENC and RND_DEC share: RIDX 5 to 7 is illegal, then RK_VALID is checked, then the effect with the
selected key (R124, R133, R134; R202). -/
def State.withRoundKey (s : State) (r : BitVec 3) (effect : DWord → State) :
    Host.Outcome State Fault Refusal :=
  match s.operands.rk.select r with
  | none => .next (s.fail .illegalCmd)
  | some k => s.perform [(s.operands.rkValid, .noKey)] fun _ => effect k

/-- SUBST (R123). -/
def execSubst (s : State) : Host.Outcome State Fault Refusal :=
  s.perform [] fun _ => (s.withWout (substitute s.operands.win)).complete

/-- ROUNDF r (R124). -/
def execRoundf (r : BitVec 3) (s : State) : Host.Outcome State Fault Refusal :=
  s.withRoundKey r fun k => (s.withWout (roundF s.operands.win k)).complete

end Sys2Proof.Machine
end

