-- ==== Sys2Proof/Machine/BlockCipher.lean ====
section
/-!
DEFINITION. The 5-round block datapath: one round forward and back, the block transforms, RND_ENC, RND_DEC, BLK_ENC and
BLK_DEC (43_blockcipher.md).
-/

namespace Sys2Proof.Machine

/-- The forward round (R130). -/
def roundEnc (st : Block) (rk : DWord) : Block :=
  let x := ~~~(st.a ^^^ rk32 rk)
  let y := ~~~(st.d ^^^ rk32 rk)
  { a := st.b ^^^ roundF y rk, b := y, c := x, d := st.c ^^^ roundF x rk }

/-- The inverse round, which computes F forward (R131). -/
def roundDec (st : Block) (rk : DWord) : Block :=
  let x := st.c
  let y := st.b
  { a := ~~~x ^^^ rk32 rk, b := st.a ^^^ roundF y rk, c := st.d ^^^ roundF x rk, d := ~~~y ^^^ rk32 rk }

/-- blockEncrypt: rounds with RK0, RK1, RK2, RK3, RK4 (R135). -/
def blockEncrypt (st : Block) (k : RoundKeys) : Block := k.toList.foldl roundEnc st

/-- blockDecrypt: inverse rounds with RK4 first (R136). -/
def blockDecrypt (st : Block) (k : RoundKeys) : Block := k.toList.reverse.foldl roundDec st

/-- RND_ENC r (R133). -/
def execRndEnc (r : BitVec 3) (s : State) : Host.Outcome State Fault Refusal :=
  s.withRoundKey r fun k => (s.withBlk (roundEnc s.operands.blk k)).complete

/-- RND_DEC r (R134). -/
def execRndDec (r : BitVec 3) (s : State) : Host.Outcome State Fault Refusal :=
  s.withRoundKey r fun k => (s.withBlk (roundDec s.operands.blk k)).complete

/-- BLK_ENC (R135). -/
def execBlkEnc (s : State) : Host.Outcome State Fault Refusal :=
  let x := s.operands
  s.perform [(x.rkValid, .noKey)] fun _ => (s.withBlk (blockEncrypt x.blk x.rk)).complete

/-- BLK_DEC (R136). -/
def execBlkDec (s : State) : Host.Outcome State Fault Refusal :=
  let x := s.operands
  s.perform [(x.rkValid, .noKey)] fun _ => (s.withBlk (blockDecrypt x.blk x.rk)).complete

end Sys2Proof.Machine
end

