-- ==== Sys2Proof/Machine/KeySchedule.lean ====
section
/-!
DEFINITION. The key-schedule engine: the key fold, the five LCG round keys, KSCHED and KCLEAR (41_keyschedule.md).
-/

namespace Sys2Proof.Machine

/-- The multiplier LCG_A (R112). -/
def lcgA : DWord := 6364136223846793005

/-- The increment LCG_C (R112). -/
def lcgC : DWord := 1442695040888963407

/-- The key fold (R110). -/
def keyFold (k : List Byte) : DWord :=
  k.foldl (fun seed b => (seed <<< 8) ||| b.setWidth 64) 0

/-- One LCG step mod 2^64 (R111). -/
def lcgStep (seed : DWord) : DWord := seed * lcgA + lcgC

/-- Round-key expansion (R111): RoundKeys[i] is the seed after i + 1 steps. -/
def expand (seed : DWord) : RoundKeys :=
  let k0 := lcgStep seed
  let k1 := lcgStep k0
  let k2 := lcgStep k1
  let k3 := lcgStep k2
  let k4 := lcgStep k3
  { rk0 := k0, rk1 := k1, rk2 := k2, rk3 := k3, rk4 := k4 }

/-- `keySchedule(k) = expand(fold(k))` (R111). -/
def keySchedule (k : List Byte) : RoundKeys := expand (keyFold k)

/-- KSCHED (R113). -/
def execKsched (s : State) : Host.Outcome State Fault Refusal :=
  let x := s.operands
  s.perform [(x.key.valid s.params, .range)] fun _ =>
    let (k, s') := s.memRead x.key
    (s'.loadKey (keyFold k) (keySchedule k)).complete

/-- KCLEAR (R114). -/
def execKclear (s : State) : Host.Outcome State Fault Refusal := 
  s.perform [] fun _ => s.clearKey.complete

end Sys2Proof.Machine
end

