-- ==== Sys2Proof/Machine/BlockChain.lean ====
section
/-!
DEFINITION. The ECB block-chain controller: partition with zero-padding, the chain forward and back, depadding, ECB_ENC and
ECB_DEC (44_blockchain.md).
-/

namespace Sys2Proof.Machine

/-- Chunk j of a plaintext, zero-padded on the right to 16 bytes (R150). -/
def chunk (p : List Byte) (j : Nat) : List Byte :=
  let c := (p.drop (16 * j)).take 16
  c ++ List.replicate (16 - c.length) 0

/-- ecbEncrypt (R151): each of the ceil(n / 16) chunks on its own, in ascending order (R158). -/
def ecbEncrypt (p : List Byte) (k : RoundKeys) : List Byte :=
  (List.range ((p.length + 15) / 16)).flatMap fun j => (blockEncrypt (Block.ofBytes (chunk p j)) k).toBytes

/-- The decrypted buffer of ecbDecrypt, n bytes where n mod 16 = 0 (R152). -/
def ecbBuffer (c : List Byte) (k : RoundKeys) : List Byte :=
  (List.range (c.length / 16)).flatMap fun j => (blockDecrypt (Block.ofBytes (chunk c j)) k).toBytes

/-- The strip of R152: `while t > 0 and out[t-1] = 0x00: t <- t - 1`, started at t. -/
def depadFrom (out : List Byte) : (t : Nat) → Nat
  | 0 => 0
  | t + 1 => if out.getD t 0 = 0 then depadFrom out t else t + 1

/-- ecbDecrypt (R152): the buffer and the length t left after stripping its trailing zeros. -/
def ecbDecrypt (c : List Byte) (k : RoundKeys) : List Byte × Nat :=
  let out := ecbBuffer c k
  (out, depadFrom out c.length)

/-- ECB_ENC (R153), one atomic step: the working copies of R44 are not state. Assumption 12 (DEDUCED). -/
def execEcbEnc (s : State) : Host.Outcome State Fault Refusal :=
  let x := s.operands
  let dst := x.dst (paddedLen x.src.len)
  s.perform
    [(x.key.valid s.params, .range), (x.src.valid s.params, .range), (dst.valid s.params, .range),
      (!x.src.overlaps dst, .overlap)] fun _ =>
    let (key, s1) := s.memRead x.key
    let (p, s2) := s1.memRead x.src
    ((s2.memWrite dst.addr (ecbEncrypt p (keySchedule key))).withDstLen dst.len).clearKey.complete

/-- ECB_DEC (R154): all n bytes are written, and DST_LEN is the stripped length. -/
def execEcbDec (s : State) : Host.Outcome State Fault Refusal :=
  let x := s.operands
  let dst := x.dst x.src.len
  s.perform
    [(decide (x.src.len % 16 = 0), .invalidInputLength), (x.key.valid s.params, .range),
      (x.src.valid s.params, .range), (dst.valid s.params, .range), (!x.src.overlaps dst, .overlap)] fun _ =>
    let (key, s1) := s.memRead x.key
    let (c, s2) := s1.memRead x.src
    let (out, t) := ecbDecrypt c (keySchedule key)
    ((s2.memWrite dst.addr out).withDstLen t).clearKey.complete

end Sys2Proof.Machine
end

