-- ==== Sys2Proof/Machine/Control.lean ====
section
/-!
DEFINITION. NOP (40_control.md) and the completion of an illegal word (R201).
-/

namespace Sys2Proof.Machine

/-- NOP (R100): no effect but the lifecycle writes. -/
def execNop (s : State) : Host.Outcome State Fault Refusal := s.perform [] fun _ => s.complete

/-- An illegal word completes with ILLEGAL_CMD: "It runs no other check and has no effect besides R203's" (R201). -/
def completeIllegal (s : State) : Host.Outcome State Fault Refusal := .next (s.fail .illegalCmd)

end Sys2Proof.Machine
end

