-- ==== Sys2Proof/Machine/HexCodec.lean ====
section
/-!
DEFINITION. The hex codec, HEX_ENC and HEX_DEC (45_hexcodec.md).
-/

namespace Sys2Proof.Machine

/-- hexchar (R170): lowercase ASCII. -/
def hexChar (v : BitVec 4) : Byte :=
  if v.toNat ≤ 9 then 0x30 + v.setWidth 8 else 0x61 + (v.setWidth 8 - 10)

/-- digit (R170, R175); none where the character is invalid. -/
def hexDigit (acceptUpper : Bool) (c : Byte) : Option (BitVec 4) :=
  if 0x30 ≤ c.toNat ∧ c.toNat ≤ 0x39 then some ((c - 0x30).setWidth 4)
  else if 0x61 ≤ c.toNat ∧ c.toNat ≤ 0x66 then some ((c - 0x61 + 10).setWidth 4)
  else if 0x41 ≤ c.toNat ∧ c.toNat ≤ 0x46 ∧ acceptUpper = true then some ((c - 0x41 + 10).setWidth 4)
  else none

/-- bytesToHex (R171): the high nibble first in each pair. -/
def bytesToHex (b : List Byte) : List Byte :=
  b.flatMap fun v => [hexChar (v.extractLsb' 4 4), hexChar (v.extractLsb' 0 4)]

/-- hexToBytes (R172): none is the failure MALFORMED_HEX, of an odd length or of any invalid digit. -/
def hexToBytes (acceptUpper : Bool) : List Byte → Option (List Byte)
  | [] => some []
  | [_] => none
  | h :: l :: rest =>
    match hexDigit acceptUpper h, hexDigit acceptUpper l, hexToBytes acceptUpper rest with
    | some x, some y, some out => some ((x ++ y : BitVec 8) :: out)
    | _, _, _ => none

/-- HEX_ENC (R173). -/
def execHexEnc (s : State) : Host.Outcome State Fault Refusal :=
  let x := s.operands
  let dst := x.dst (2 * x.src.len)
  s.perform
    [(x.src.valid s.params, .range), (dst.valid s.params, .range), (!x.src.overlaps dst, .overlap)] fun _ =>
    let (b, s') := s.memRead x.src
    ((s'.memWrite dst.addr (bytesToHex b)).withDstLen dst.len).complete

/-- HEX_DEC (R174): the content check comes last, on the text as read once. -/
def execHexDec (s : State) : Host.Outcome State Fault Refusal :=
  let x := s.operands
  let dst := x.dst (x.src.len / 2)
  s.perform
    [(decide (x.src.len % 2 = 0), .malformedHex), (x.src.valid s.params, .range), (dst.valid s.params, .range),
      (!x.src.overlaps dst, .overlap)] fun _ =>
    let (c, s') := s.memRead x.src
    match hexToBytes s.params.hexAcceptUpper c with
    | none => s'.fail .malformedHex
    | some out => ((s'.memWrite dst.addr out).withDstLen dst.len).complete

end Sys2Proof.Machine
end

