-- ==== Sys2Proof/Machine/Dispatch.lean ====
section
/-! DEFINITION. The one dispatch: the completion of each command of R82 (R93). -/

namespace Sys2Proof.Machine

def exec (i : Instr) (s : State) : Host.Outcome State Fault Refusal :=
  match i with
  | .nop => Sys2Proof.Machine.execNop s
  | .ksched => Sys2Proof.Machine.execKsched s
  | .kclear => Sys2Proof.Machine.execKclear s
  | .subst => Sys2Proof.Machine.execSubst s
  | .roundf r => Sys2Proof.Machine.execRoundf r s
  | .rndEnc r => Sys2Proof.Machine.execRndEnc r s
  | .rndDec r => Sys2Proof.Machine.execRndDec r s
  | .blkEnc => Sys2Proof.Machine.execBlkEnc s
  | .blkDec => Sys2Proof.Machine.execBlkDec s
  | .ecbEnc => Sys2Proof.Machine.execEcbEnc s
  | .ecbDec => Sys2Proof.Machine.execEcbDec s
  | .hexEnc => Sys2Proof.Machine.execHexEnc s
  | .hexDec => Sys2Proof.Machine.execHexDec s

end Sys2Proof.Machine
end

