-- ==== Sys2Proof/WellFormed.lean ====
section
/-!
DEFINITION. Which terms of `Instr` stand for a legal command word: the round index of ROUNDF, RND_ENC and RND_DEC selects
one of RK0 to RK4 (R81, R83).
-/

namespace Sys2Proof

/-- A legal round index: "legal values are 0 to 4" (R81). -/
def roundIndexLegal (r : BitVec 3) : Bool := decide (r.toNat ≤ 4)

/-- The commands of R82 and nothing else: RIDX 5 to 7 is an illegal encoding (R83). -/
def Instr.wellFormed : Instr → Bool
  | .nop => true
  | .ksched => true
  | .kclear => true
  | .subst => true
  | .roundf r => roundIndexLegal r
  | .rndEnc r => roundIndexLegal r
  | .rndDec r => roundIndexLegal r
  | .blkEnc => true
  | .blkDec => true
  | .ecbEnc => true
  | .ecbDec => true
  | .hexEnc => true
  | .hexDec => true

end Sys2Proof
end

