-- ==== Sys2Proof/Decode.lean ====
section
/-!
DEFINITION. The decoder of command words, total on all 2^32 words (R84) and rejecting each illegal word by the condition
of R83 it meets, and the encoder of R82.
-/

namespace Sys2Proof

/-- Why a command word is illegal: the four conditions of R83. -/
inductive DecodeError where
  /-- RSV ≠ 0. -/
  | reservedBitsSet
  /-- OPC in 0x0D to 0xFF. -/
  | unknownOpcode
  /-- ROUNDF, RND_ENC or RND_DEC with RIDX in 5 to 7. -/
  | roundIndexOutOfRange
  /-- RIDX ≠ 0 in a command that does not use it. -/
  | roundIndexNotZero
deriving DecidableEq, Repr

/-- OPC, bits 7:0 (R80). -/
def opcField (w : Word) : BitVec 8 := w.extractLsb' 0 8

/-- RIDX, bits 10:8 (R80). -/
def ridxField (w : Word) : BitVec 3 := w.extractLsb' 8 3

/-- RSV, bits 31:11 (R80). -/
def rsvField (w : Word) : BitVec 21 := w.extractLsb' 11 21

/-- A command that takes no round index: RIDX must be 0 (R83). -/
def decodePlain (i : Instr) (w : Word) : Except DecodeError Instr :=
  if ridxField w = 0 then .ok i else .error .roundIndexNotZero

/-- A command that takes the round index RIDX, which must be at most 4 (R83). -/
def decodeIndexed (f : BitVec 3 → Instr) (w : Word) : Except DecodeError Instr :=
  if roundIndexLegal (ridxField w) then .ok (f (ridxField w)) else .error .roundIndexOutOfRange

/-- The decoder: the opcode map of R82 and the illegal words of R83. -/
def decode (w : Word) : Except DecodeError Instr :=
  if rsvField w ≠ 0 then .error .reservedBitsSet
  else
    match (opcField w).toNat with
    | 0x00 => decodePlain .nop w
    | 0x01 => decodePlain .ksched w
    | 0x02 => decodePlain .kclear w
    | 0x03 => decodePlain .subst w
    | 0x04 => decodeIndexed .roundf w
    | 0x05 => decodeIndexed .rndEnc w
    | 0x06 => decodeIndexed .rndDec w
    | 0x07 => decodePlain .blkEnc w
    | 0x08 => decodePlain .blkDec w
    | 0x09 => decodePlain .ecbEnc w
    | 0x0A => decodePlain .ecbDec w
    | 0x0B => decodePlain .hexEnc w
    | 0x0C => decodePlain .hexDec w
    | _ => .error .unknownOpcode

/-- The opcode of R82's first column. -/
def Instr.opcode : Instr → BitVec 8
  | .nop => 0x00
  | .ksched => 0x01
  | .kclear => 0x02
  | .subst => 0x03
  | .roundf _ => 0x04
  | .rndEnc _ => 0x05
  | .rndDec _ => 0x06
  | .blkEnc => 0x07
  | .blkDec => 0x08
  | .ecbEnc => 0x09
  | .ecbDec => 0x0A
  | .hexEnc => 0x0B
  | .hexDec => 0x0C

/-- RIDX of the command: its round index, 0 where it takes none (R82). -/
def Instr.ridx : Instr → BitVec 3
  | .roundf r => r
  | .rndEnc r => r
  | .rndDec r => r
  | .nop => 0
  | .ksched => 0
  | .kclear => 0
  | .subst => 0
  | .blkEnc => 0
  | .blkDec => 0
  | .ecbEnc => 0
  | .ecbDec => 0
  | .hexEnc => 0
  | .hexDec => 0

/-- The command word of R80: RSV = 0, then RIDX, then OPC. -/
def encode (i : Instr) : Word := (0#21 ++ i.ridx ++ i.opcode : BitVec 32)

/-- The command the decoder reads from a row's bits as spec/opcode_table.json numbers them. A command is one 32-bit word,
so the table's bit n is the word's bit n and no byte order is involved (R80). -/
def decodeTableWord (nbits w : Nat) : Option Instr :=
  if nbits ≤ 32 then (decode (BitVec.ofNat 32 (w % 2 ^ nbits))).toOption else none

end Sys2Proof
end

