-- ==== Sys2Proof/Machine/Reset.lean ====
section
/-!
DEFINITION. Hardware reset (R230) and soft reset (R231).
-/

namespace Sys2Proof.Machine

/-- Hardware reset, while `rst_n` is low and when it rises (R230): every register at its reset value, PEND abandoned, every
DMEM byte unspecified. The draw counter goes on, so that a draw after reset is fresh. Assumption 9 (DEDUCED). -/
def State.hardReset (s : State) (level : Bool) : State :=
  { State.reset with params := s.params, rstN := level, draws := s.draws, events := s.events }

/-- The destination region of the memory command in PEND, as sampled at issue; none for any other word (R231). -/
def State.abandonedRegion (s : State) : Option Region :=
  match s.pend with
  | none => none
  | some p =>
    match decode p.word with
    | .error _ => none
    | .ok i => (outlenOf i p.inputs.src.len).map p.inputs.dst

/-- DMEM after a soft reset: the abandoned command's destination region becomes unspecified, every other byte keeps its
value (R231). Assumption 7 (DEDUCED). -/
def State.softResetDmem (s : State) : Memory :=
  match s.abandonedRegion with
  | none => s.dmem
  | some g => s.dmem.forget g.addr g.len

/-- Soft reset (R231): the registers as for `rst_n`, so IRQ_EN is 0 whatever the write held, and PEND abandoned. -/
def State.softReset (s : State) : State :=
  { State.reset with
    params := s.params, rstN := s.rstN, dmem := s.softResetDmem, draws := s.draws, events := s.events
    response := s.response }

end Sys2Proof.Machine
end

