-- ==== Sys2Proof/Machine/HostPort.lean ====
section
/-!
DEFINITION. Host transactions: the address map (R23, R61 to R65), register reads and writes (R24 to R43), DMEM reads and
writes (R65), and what each does while BUSY = 1 (R240).
-/

namespace Sys2Proof.Machine

/-- The number of bytes of a size (R62). -/
def AccessSize.bytes : AccessSize → Nat
  | .one => 1
  | .two => 2
  | .four => 4

/-- The size of a datum. -/
def Data.size : Data → AccessSize
  | .byte _ => .one
  | .half _ => .two
  | .word _ => .four

/-- The size of a transaction (R62). -/
def Access.size : Access → AccessSize
  | .read n => n
  | .write d => d.size

/-- The bytes of a datum in the big-endian order of R65. -/
def Data.toBytes : Data → List Byte
  | .byte v => [v]
  | .half v => [v.extractLsb' 8 8, v.extractLsb' 0 8]
  | .word v => bytesBe32 v

/-- The rdata of the bytes read, big-endian (R65). -/
def Data.ofBytes (size : AccessSize) (bs : List Byte) : Data :=
  match size with
  | .one => .byte (bs.getD 0 0)
  | .two => .half (bs.getD 0 0 ++ bs.getD 1 0 : BitVec 16)
  | .four => .word (be32 (bs.getD 0 0) (bs.getD 1 0) (bs.getD 2 0) (bs.getD 3 0))

/-- A datum of a size out of a word, for an unspecified read (R240). -/
def Data.ofWord (size : AccessSize) (w : Word) : Data :=
  match size with
  | .one => .byte (w.setWidth 8)
  | .two => .half (w.setWidth 16)
  | .four => .word w

/-- The offset of a register (R23). -/
def Reg.offset : Reg → Nat
  | .id => 0x000
  | .version => 0x004
  | .ctrl => 0x008
  | .status => 0x00C
  | .cmd => 0x010
  | .srcAddr => 0x014
  | .srcLen => 0x018
  | .dstAddr => 0x01C
  | .dstLen => 0x020
  | .keyAddr => 0x024
  | .keyLen => 0x028
  | .blkA => 0x030
  | .blkB => 0x034
  | .blkC => 0x038
  | .blkD => 0x03C
  | .win => 0x040
  | .wout => 0x044
  | .kfoldLo => 0x048
  | .kfoldHi => 0x04C
  | .rkLo i => 0x050 + 8 * i.val
  | .rkHi i => 0x054 + 8 * i.val

/-- The register map read the other way: the register at an offset, none where it is unmapped (R23). -/
def regAt (offset : Nat) : Option Reg :=
  match offset with
  | 0x000 => some .id
  | 0x004 => some .version
  | 0x008 => some .ctrl
  | 0x00C => some .status
  | 0x010 => some .cmd
  | 0x014 => some .srcAddr
  | 0x018 => some .srcLen
  | 0x01C => some .dstAddr
  | 0x020 => some .dstLen
  | 0x024 => some .keyAddr
  | 0x028 => some .keyLen
  | 0x030 => some .blkA
  | 0x034 => some .blkB
  | 0x038 => some .blkC
  | 0x03C => some .blkD
  | 0x040 => some .win
  | 0x044 => some .wout
  | 0x048 => some .kfoldLo
  | 0x04C => some .kfoldHi
  | 0x050 => some (.rkLo 0)
  | 0x054 => some (.rkHi 0)
  | 0x058 => some (.rkLo 1)
  | 0x05C => some (.rkHi 1)
  | 0x060 => some (.rkLo 2)
  | 0x064 => some (.rkHi 2)
  | 0x068 => some (.rkLo 3)
  | 0x06C => some (.rkHi 3)
  | 0x070 => some (.rkLo 4)
  | 0x074 => some (.rkHi 4)
  | _ => none

/-- What a transaction reaches. -/
inductive Target where
  | reg (r : Reg)
  | dmem (a : Nat)
deriving DecidableEq, Repr

/-- The address map of R61 with the form rules of R63, R64 and R65: a target, or the stop. -/
def target (p : Params) (t : Transaction) : Except Fault Target :=
  let n := t.access.size.bytes
  if t.offset < 0x100 then
    if n = 4 ∧ t.offset % 4 = 0 then
      match regAt t.offset with
      | some r => .ok (.reg r)
      | none => .error (.busErr .unmapped)
    else .error (.busErr .registerAccess)
  else if t.offset < 0x10000 then .error (.busErr .unmapped)
  else if t.offset < 0x20000 then
    let a := t.offset - 0x10000
    if a % n ≠ 0 then .error (.busErr .dmemMisaligned)
    else if p.dmemBytes < a + n then .error (.busErr .dmemPastEnd)
    else .ok (.dmem a)
  else .error .outsideAperture

/-- ID (R24): the ASCII codes of "NLCA". -/
def idValue : Word := 0x4E4C4341

/-- VERSION (R25). -/
def versionValue : Word := 0x00000001

/-- The value a register reads as (R23 to R42). -/
def State.readReg (s : State) : Reg → Word
  | .id => idValue
  | .version => versionValue
  | .ctrl => ctrlWord s.irqEn
  | .status => s.status.toWord
  | .cmd => s.cmd
  | .srcAddr => s.srcAddr
  | .srcLen => s.srcLen
  | .dstAddr => s.dstAddr
  | .dstLen => s.dstLen
  | .keyAddr => s.keyAddr
  | .keyLen => s.keyLen
  | .blkA => s.blk.a
  | .blkB => s.blk.b
  | .blkC => s.blk.c
  | .blkD => s.blk.d
  | .win => s.win
  | .wout => s.wout
  | .kfoldLo => s.kfold.extractLsb' 0 32
  | .kfoldHi => s.kfold.extractLsb' 32 32
  | .rkLo i => (s.rk.get i).extractLsb' 0 32
  | .rkHi i => (s.rk.get i).extractLsb' 32 32

/-- A host write of CTRL (R26): bit 31 performs the soft reset; otherwise IRQ_EN takes bit 0. -/
def State.writeCtrl (s : State) (v : Word) : State :=
  if v.getLsbD 31 then s.softReset else s.withIrqEn (v.getLsbD 0)

/-- A host write of STATUS (R27). -/
def State.writeStatus (s : State) (v : Word) : State := s.withStatus (s.status.writeOneToClear v)

/-- A register write while BUSY = 0 (R23 to R43): a write to a read-only register is ignored, a CMD write is an issue. -/
def State.writeReg (s : State) (r : Reg) (v : Word) : State :=
  match r with
  | .id => s
  | .version => s
  | .ctrl => s.writeCtrl v
  | .status => s.writeStatus v
  | .cmd => s.issue v
  | .srcAddr => { s with srcAddr := v }
  | .srcLen => { s with srcLen := v }
  | .dstAddr => { s with dstAddr := v }
  | .dstLen => s
  | .keyAddr => { s with keyAddr := v }
  | .keyLen => { s with keyLen := v }
  | .blkA => { s with blk := { s.blk with a := v } }
  | .blkB => { s with blk := { s.blk with b := v } }
  | .blkC => { s with blk := { s.blk with c := v } }
  | .blkD => { s with blk := { s.blk with d := v } }
  | .win => { s with win := v }
  | .wout => s
  | .kfoldLo => s
  | .kfoldHi => s
  | .rkLo _ => s
  | .rkHi _ => s

/-- The registers whose reads are defined while BUSY = 1 (R240). -/
def Reg.readDefinedWhileBusy : Reg → Bool
  | .id => true
  | .version => true
  | .ctrl => true
  | .status => true
  | .cmd => false
  | .srcAddr => false
  | .srcLen => false
  | .dstAddr => false
  | .dstLen => false
  | .keyAddr => false
  | .keyLen => false
  | .blkA => false
  | .blkB => false
  | .blkC => false
  | .blkD => false
  | .win => false
  | .wout => false
  | .kfoldLo => false
  | .kfoldHi => false
  | .rkLo _ => false
  | .rkHi _ => false

/-- The response on the bus target port. -/
def State.respond (s : State) (r : Response) : State := { s with response := some r }

/-- OK with an unspecified value, a fresh draw (R240). -/
def State.respondDraw (s : State) (size : AccessSize) : State :=
  { s with draws := s.draws + 1 }.respond (.read (Data.ofWord size (Config.freeWord s.draws)))

/-- A register write while BUSY = 1 (R240): CTRL and STATUS take effect, every other write is ignored and sets OVF. -/
def State.writeRegBusy (s : State) (r : Reg) (v : Word) : State :=
  match r with
  | .ctrl => s.writeCtrl v
  | .status => s.writeStatus v
  | .id => s.overrun
  | .version => s.overrun
  | .cmd => s.overrun
  | .srcAddr => s.overrun
  | .srcLen => s.overrun
  | .dstAddr => s.overrun
  | .dstLen => s.overrun
  | .keyAddr => s.overrun
  | .keyLen => s.overrun
  | .blkA => s.overrun
  | .blkB => s.overrun
  | .blkC => s.overrun
  | .blkD => s.overrun
  | .win => s.overrun
  | .wout => s.overrun
  | .kfoldLo => s.overrun
  | .kfoldHi => s.overrun
  | .rkLo _ => s.overrun
  | .rkHi _ => s.overrun

/-- A register read (R63, R240). -/
def State.hostReadReg (s : State) (r : Reg) : State :=
  if s.status.busy && !r.readDefinedWhileBusy then s.respondDraw .four
  else s.respond (.read (.word (s.readReg r)))

/-- A register write (R63, R240). -/
def State.hostWriteReg (s : State) (r : Reg) (v : Word) : State :=
  (if s.status.busy then s.writeRegBusy r v else s.writeReg r v).respond .written

/-- A DMEM read (R65, R66, R240). -/
def State.hostReadDmem (s : State) (a : Nat) (size : AccessSize) : State :=
  if s.status.busy then s.respondDraw size
  else
    let (bs, s') := s.memRead { addr := a, len := size.bytes }
    s'.respond (.read (Data.ofBytes size bs))

/-- A DMEM write (R65, R240). -/
def State.hostWriteDmem (s : State) (a : Nat) (d : Data) : State :=
  (if s.status.busy then s.overrun else s.memWrite a d.toBytes).respond .written

/-- The word a register write carries: `target` admits only 4-byte register accesses (R63). -/
def Data.toWord : Data → Word
  | .byte v => v.setWidth 32
  | .half v => v.setWidth 32
  | .word v => v

/-- One host transaction (R62): BUSERR stops, OK acts on the register or the DMEM bytes. -/
def hostStep (t : Transaction) (s : State) : Host.Outcome State Fault Refusal :=
  match target s.params t, t.access with
  | .error f, _ => .fault f
  | .ok (.reg r), .read _ => .next (s.hostReadReg r)
  | .ok (.reg r), .write d => .next (s.hostWriteReg r d.toWord)
  | .ok (.dmem a), .read size => .next (s.hostReadDmem a size)
  | .ok (.dmem a), .write d => .next (s.hostWriteDmem a d)

end Sys2Proof.Machine
end

