-- ==== Sys2Proof/Machine/Step.lean ====
section
/-!
DEFINITION. One step of the machine: the next event of R204, or the completion of the command in flight (R92, R93).
-/

namespace Sys2Proof.Machine

/-- The completion of a PEND command (R93): its word is decoded, and an illegal word completes with ILLEGAL_CMD (R201). -/
def completeWord (w : Word) (s : State) : Host.Outcome State Fault Refusal :=
  match decode w with
  | .ok i => exec i s
  | .error _ => completeIllegal s

/-- CORE's turn: its one enabled step is the completion of PEND, and none is enabled while it is idle (R92, R224). -/
def coreStep (s : State) : Host.Outcome State Fault Refusal :=
  match s.pend with
  | some p => completeWord p.word s
  | none => .next s

/-- What one event does, in a state from whose queue it has been taken. -/
def eventStep (e : Event) (s : State) : Host.Outcome State Fault Refusal :=
  match e with
  | .host t => if s.rstN then hostStep t s else .refused .hostTransactionInReset
  | .complete => coreStep s
  | .rstLow => .next (s.hardReset false)
  | .rstHigh => .next (s.hardReset true)

/-- One step. The events come in the order of the queue; when it is empty, CORE completes what is in flight, as the
fairness of R92 asks, and then holds its state (R224). Assumption 3 (DESIGN CHOICE). -/
def step (s : State) : Host.Outcome State Fault Refusal :=
  match s.events with
  | [] => coreStep s
  | e :: rest => eventStep e { s with events := rest }

/-- The state in which the word w has just been issued (R91) and CORE moves next. CORE fetches no instructions (R21): this
stands for the host's CMD write and for the choice of R92 that the completion comes before the next host transaction. -/
def State.withFetchWord (s : State) (nbits w : Nat) : State :=
  { s.issue (BitVec.ofNat 32 (w % 2 ^ nbits)) with events := .complete :: s.events }

end Sys2Proof.Machine
end

