-- ==== Sys2Proof/Machine/HostProgram.lean ====
section
/-!
DEFINITION. The host-program notation of R86 and its encoding as transactions (R87). CORE does not execute it: it is what a
host writes, and `Event.host` carries each transaction to CORE.
-/

namespace Sys2Proof.Machine

/-- One line of a host program (R86). -/
inductive HostLine where
  /-- `W REG, v`. -/
  | w (r : Reg) (v : Word)
  /-- `R REG`. -/
  | r (r : Reg)
  /-- `WB a, b0, b1, …`. -/
  | wb (a : Nat) (bs : List Byte)
  /-- `RB a, n`. -/
  | rb (a n : Nat)
  /-- `WW a, v`. -/
  | ww (a : Nat) (v : Word)
  /-- `RW a`. -/
  | rw (a : Nat)
  /-- `CMD m`. -/
  | cmd (m : Instr)
  /-- `POLL`. -/
  | poll
  /-- `RUN m`. -/
  | run (m : Instr)
  /-- `WSTR a, "text"`. -/
  | wstr (a : Nat) (text : String)
  /-- `CLR`. -/
  | clr
deriving DecidableEq, Repr

/-- `(off(REG), 4, write, v)`. -/
def Transaction.writeReg (r : Reg) (v : Word) : Transaction := { offset := r.offset, access := .write (.word v) }

/-- `(off(REG), 4, read)`. -/
def Transaction.readReg (r : Reg) : Transaction := { offset := r.offset, access := .read .four }

/-- `(0x10000+a, size, kind, data)`. -/
def Transaction.dmem (a : Nat) (k : Access) : Transaction := { offset := 0x10000 + a, access := k }

/-- The byte writes of `WB`. -/
def Transaction.writeBytes : Nat → List Byte → List Transaction
  | _, [] => []
  | a, b :: bs => Transaction.dmem a (.write (.byte b)) :: Transaction.writeBytes (a + 1) bs

/-- The reads of a `POLL` that sees BUSY = 1 n times: "as many `R STATUS` reads as it takes, and at least one" (R87). -/
def Transaction.poll (n : Nat) : List Transaction := List.replicate (n + 1) (Transaction.readReg .status)

/-- The encoding of a line (R86, R87), with n the number of reads of a `POLL` that return BUSY = 1. R86 gives a character
of `WSTR` its ASCII code and says nothing of one that has none: here every character is written as the low 8 bits of its
code point. A line outside R86's forms (`WW` or `RW` with a mod 4 ≠ 0, `CMD` of an ill-formed command) is encoded as it
stands. Assumption 13 (DESIGN CHOICE). -/
def HostLine.encode (n : Nat) : HostLine → List Transaction
  | .w reg v => [Transaction.writeReg reg v]
  | .r reg => [Transaction.readReg reg]
  | .wb a bs => Transaction.writeBytes a bs
  | .rb a k => (List.range k).map fun j => Transaction.dmem (a + j) (.read .one)
  | .ww a v => [Transaction.dmem a (.write (.word v))]
  | .rw a => [Transaction.dmem a (.read .four)]
  | .cmd m => [Transaction.writeReg .cmd (Sys2Proof.encode m)]
  | .poll => Transaction.poll n
  | .run m => Transaction.writeReg .cmd (Sys2Proof.encode m) :: Transaction.poll n
  | .wstr a text => Transaction.writeBytes a (text.toList.map fun c => BitVec.ofNat 8 c.toNat)
  | .clr => [Transaction.writeReg .status 0x00000016]

/-- A host program: its lines in program order (R86). -/
abbrev HostProgram := List HostLine

/-- Whether a line holds a `POLL`; `RUN` ends in one (R86). -/
def HostLine.hasPoll : HostLine → Bool
  | .w _ _ => false
  | .r _ => false
  | .wb _ _ => false
  | .rb _ _ => false
  | .ww _ _ => false
  | .rw _ => false
  | .cmd _ => false
  | .poll => true
  | .run _ => true
  | .wstr _ _ => false
  | .clr => false

/-- The lines from the one whose `POLL`, if it has one, is number k on. -/
def HostProgram.encodeFrom (busyReads : Nat → Nat) : (k : Nat) → HostProgram → List Transaction
  | _, [] => []
  | k, l :: p => l.encode (busyReads k) ++ HostProgram.encodeFrom busyReads (if l.hasPoll then k + 1 else k) p

/-- The encoding of a program (R87): "the list of its transactions as (offset, size, kind, data) tuples after every
pseudo-instruction has been expanded", in program order. `POLL` has no fixed encoding, so the k-th `POLL` of the program
(from 0) has a read count of its own, `busyReads k` reads that return BUSY = 1 and the one that ends it. -/
def HostProgram.encode (busyReads : Nat → Nat) (p : HostProgram) : List Transaction :=
  HostProgram.encodeFrom busyReads 0 p

end Sys2Proof.Machine
end

