-- ==== Sys2Proof/Safety.lean ====
section
/-!
DEFINITION. The terms claims are stated in: what a region of DMEM holds, the state after a success and after a failure, the
end of a run (R248), and the invariant that every step keeps.
-/

namespace Sys2Proof.Machine

/-- The bytes are written at a, a+1, and so on. -/
def Memory.Holds (m : Memory) (a : Nat) (bs : List Byte) : Prop :=
  ∀ j < bs.length, m.get? (a + j) = bs[j]?

/-- A possible reading of the region at a: a byte that is written reads as it is, an unspecified one as any value (R66). -/
def Memory.Reads (m : Memory) (a : Nat) (bs : List Byte) : Prop :=
  ∀ j < bs.length, ∀ v, m.get? (a + j) = some v → bs[j]? = some v

/-- No byte outside the region of n bytes at a differs. -/
def Memory.SameOutside (m m' : Memory) (a n : Nat) : Prop :=
  ∀ x, x < a ∨ a + n ≤ x → m'.get? x = m.get? x

/-- The lifecycle writes of R93 after a success, and the irq level of R210 with DONE = 1; nothing else. -/
def State.succeeded (s : State) : State :=
  { s with status := { s.status with busy := false, done := true }, pend := none, irq := s.irqEn }

/-- The writes of R203 after a failure, and the irq level of R210 with DONE = 1; nothing else. -/
def State.failed (s : State) (code : ErrCode) : State :=
  { s with
    status := { s.status with busy := false, done := true, err := true, errCode := code }
    pend := none
    irq := s.irqEn }

/-- The end of a host program's run: "the host has made its last transaction" and "BUSY = 0, because the last issued command
has completed" (R248). Resets and completions still to come do not matter to it. -/
def State.RunEnded (s : State) : Prop := (∀ t, Event.host t ∉ s.events) ∧ s.status.busy = false

/-- "The final state is the register file and DMEM at that point" (R248): u is the state after n steps from s, where the run
has ended, and it had not ended before. -/
def State.FinalAfter (s : State) (n : Nat) (u : State) : Prop :=
  core.run n s = .next u ∧ u.RunEnded ∧ ∀ m < n, ∀ v, core.run m s = .next v → ¬ v.RunEnded

/-- What holds in every state a run reaches. -/
structure State.Inv (s : State) : Prop where
  /-- DMEM is in canonical form, within `DMEM_BYTES` (R60). -/
  dmem_wf : s.dmem.wf s.params.dmemBytes
  /-- "It is empty when BUSY = 0; otherwise it holds the accepted command word" (R44). -/
  busy_iff_pend : s.status.busy = s.pend.isSome
  /-- CMD holds the word in flight, and the sampled inputs "cannot change before completion" (R34, R73). -/
  pend_sampled : ∀ p, s.pend = some p → p = { word := s.cmd, inputs := s.sample }
  /-- "ERRCODE = 0 if and only if ERR = 0" (R33). -/
  err_iff_code : s.status.err = false ↔ s.status.errCode = .noError
  /-- The irq line (R210). -/
  irq_level : s.irq = (s.irqEn && (s.status.done || s.status.err))
  /-- With RK_VALID = 1 the key registers hold a key schedule (R31, R113). -/
  key_valid : s.status.rkValid = true → s.rk = expand s.kfold
  /-- With RK_VALID = 0 the key registers are clear (R41, R42). -/
  key_clear : s.status.rkValid = false → s.kfold = 0 ∧ s.rk = RoundKeys.zero
  /-- "While `rst_n` is low" every register holds its reset value and DMEM is unspecified (R230). -/
  in_reset : s.rstN = false → s = s.hardReset false

end Sys2Proof.Machine
end

