-- ==== Sys2Proof/Certificates/Slice0/Obligations.lean ====
section
/-!
DEFINITION. The statements for the provers, taken from the numbered rules of the spec. `State.succeeded` and
`State.failed` (Safety.lean) are the lifecycle writes of R93 and R203 and nothing else, so an equation
`exec i s = .next ({ s with … }).succeeded` gives the result, the completion and the frame at once: every field it does not
name is unchanged. `s.operands` are the inputs of R73.
-/

open Sys2Proof Sys2Proof.Machine

/-! ### Terms of the statements -/

/-- The S-box as printed in R120. -/
def Claims.sboxValues : List Nat := [3, 15, 14, 1, 0, 7, 5, 10, 4, 12, 11, 9, 2, 8, 13, 6]

/-- The hex characters of R170. -/
def Claims.IsHex (up : Bool) (c : Byte) : Prop :=
  (0x30 ≤ c.toNat ∧ c.toNat ≤ 0x39) ∨ (0x61 ≤ c.toNat ∧ c.toNat ≤ 0x66) ∨
    (up = true ∧ 0x41 ≤ c.toNat ∧ c.toNat ≤ 0x46)

/-- The value of a hex character (R170). -/
def Claims.hexValue (c : Byte) : Nat :=
  if c.toNat ≤ 0x39 then c.toNat - 0x30 else if 0x61 ≤ c.toNat then c.toNat - 0x61 + 10 else c.toNat - 0x41 + 10

/-- The character of a nibble (R170). -/
def Claims.charValue (v : Nat) : Nat := if v ≤ 9 then 0x30 + v else 0x61 + (v - 10)

/-- Region (a, l) is valid (R95). -/
def Claims.Valid (s : State) (a : Word) (l : Nat) : Prop := l = 0 ∨ a.toNat + l ≤ s.params.dmemBytes

/-- The regions (a1, l1) and (a2, l2) overlap (R98). -/
def Claims.Overlap (a1 : Word) (l1 : Nat) (a2 : Word) (l2 : Nat) : Prop :=
  0 < l1 ∧ 0 < l2 ∧ a1.toNat < a2.toNat + l2 ∧ a2.toNat < a1.toNat + l1

/-- The 16 bytes of chunk j of a text, 0x00 past its end (R150). -/
def Claims.chunkBytes (p : List Byte) (j : Nat) : List Byte :=
  (List.range 16).map fun i => p.getD (16 * j + i) 0

/-- The text without its trailing zero bytes. -/
def Claims.strip (p : List Byte) : List Byte := (p.reverse.dropWhile (fun b => b == 0)).reverse

/-! ### Encoding -/

/-- Decoding gives a command exactly for its own word, so decode and encode are inverse to each other on the legal words
(R82, R84). -/
def Obligations.DecodeIsExactlyTheInverseOfEncode : Prop :=
  ∀ (w : Word) (i : Instr), decode w = .ok i ↔ i.wellFormed = true ∧ encode i = w

/-- "The legal words are exactly 0x00000000–0x0000000C, plus 0x00000104–0x00000106, …" (R84). -/
def Obligations.LegalWordsAreTheTwentyFiveOfR84 : Prop :=
  ∀ w : Word, (∃ i, decode w = .ok i) ↔
    w.toNat ≤ 0x0C ∨ ∃ r, 1 ≤ r ∧ r ≤ 4 ∧ 0x100 * r + 0x04 ≤ w.toNat ∧ w.toNat ≤ 0x100 * r + 0x06

/-- A few words of R82 decode to their commands. -/
def Obligations.WordsOfTheOpcodeMapDecode : Prop :=
  decode 0x00000000 = .ok .nop ∧ decode 0x00000001 = .ok .ksched ∧ decode 0x00000003 = .ok .subst ∧
    decode 0x00000204 = .ok (.roundf 2) ∧ decode 0x00000405 = .ok (.rndEnc 4) ∧ decode 0x00000106 = .ok (.rndDec 1) ∧
    decode 0x00000008 = .ok .blkDec ∧ decode 0x00000009 = .ok .ecbEnc ∧ decode 0x0000000C = .ok .hexDec

/-- The four illegal conditions of R83; such a word is accepted at issue and completes with ILLEGAL_CMD and no other
effect, and any other word completes as its command. -/
def Obligations.IllegalWordCompletesWithIllegalCmd : Prop :=
  ∀ (w : Word) (s : State),
    let opc := w.toNat % 256
    let ridx := w.toNat / 256 % 8
    let rsv := w.toNat / 2048
    let indexed := opc = 0x04 ∨ opc = 0x05 ∨ opc = 0x06
    let illegal := 0x0D ≤ opc ∨ rsv ≠ 0 ∨ (indexed ∧ 5 ≤ ridx) ∨ (¬ indexed ∧ ridx ≠ 0)
    (illegal → completeWord w s = .next (s.failed .illegalCmd)) ∧
    (¬ illegal → ∃ i, decode w = .ok i ∧ completeWord w s = exec i s) ∧
    (s.status.busy = false → ∃ t, hostStep (Transaction.writeReg .cmd w) s = .next t ∧ t.cmd = w ∧
      t.pend = some { word := w, inputs := s.sample } ∧ t.status.busy = true ∧ t.status.err = s.status.err)

/-! ### Steps -/

/-- CORE's step is the command its PEND word decodes to (R92, R93), where no event is left or the next one is the
completion, and a failure with ILLEGAL_CMD and no other effect where the word decodes to none (R201); a word placed by
`withFetchWord` is that word, issued. That an empty queue lets the command complete, and what `withFetchWord` stands for, are
the model's choice (assumption 3, DESIGN CHOICE). -/
def Obligations.StepRunsTheDecodedCommand : Prop :=
  (∀ (s : State) (p : Pending) (i : Instr), s.pend = some p → decode p.word = .ok i →
    (s.events = [] → step s = exec i s) ∧
    (∀ rest, s.events = .complete :: rest → step s = exec i { s with events := rest })) ∧
  (∀ (s : State) (p : Pending) (e : DecodeError), s.pend = some p → decode p.word = .error e →
    (s.events = [] → step s = .next (s.failed .illegalCmd)) ∧
    (∀ rest, s.events = .complete :: rest → step s = .next (({ s with events := rest } : State).failed .illegalCmd))) ∧
  ∀ (s : State) (w : Word) (i : Instr), decode w = .ok i →
    step (s.withFetchWord 32 w.toNat) = exec i (s.issue w)

/-- A host transaction at the head of the queue is made out of reset and has no step in reset (R204, R230); the events are
the model's form of R204's total order (assumption 3). -/
def Obligations.StepTakesTheNextEvent : Prop :=
  ∀ (s : State) (t : Transaction) (rest : List Event), s.events = .host t :: rest →
    (s.rstN = true → step s = hostStep t { s with events := rest }) ∧
    (s.rstN = false → step s = .refused .hostTransactionInReset)

/-- Every step keeps `State.Inv`: DMEM canonical and within bounds, BUSY with PEND, the sample equal to the registers,
ERRCODE with ERR, the irq level, the key registers with RK_VALID, and the reset values while `rst_n` is low. -/
def Obligations.EveryStepKeepsTheInvariant : Prop :=
  ∀ s s' : State, s.Inv → step s = .next s' → s'.Inv

/-- The state after reset meets `State.Inv`. -/
def Obligations.ResetMeetsTheInvariant : Prop := State.reset.Inv

/-- Every run that nothing stops passes its final state (R248), within one step for each event and one more. With the whole
queue taken CORE is idle, the command in flight completed or abandoned by a reset (R92), and then holds its state (R224). With
no host transaction and no edge of `rst_n` in the queue a command in flight completes, with DONE = 1. A completion that comes
while CORE is idle changes nothing. Only a host transaction can stop a run. The queue, and that an empty one lets the command
in flight complete, are the model's choice (assumption 3, DESIGN CHOICE). -/
def Obligations.EveryRunEndsIdle : Prop :=
  (∀ s t : State, s.Inv → core.run (s.events.length + 1) s = .next t →
    (∃ n u, n ≤ s.events.length + 1 ∧ s.FinalAfter n u) ∧ t.events = [] ∧ t.status.busy = false ∧ step t = .next t) ∧
  (∀ s : State, s.pend.isSome = true → (∀ e ∈ s.events, e = .complete) →
    ∃ t, core.run (s.events.length + 1) s = .next t ∧ t.status.busy = false ∧ t.status.done = true ∧ t.pend = none) ∧
  (∀ (s : State) (rest : List Event), s.Inv → s.status.busy = false → s.events = .complete :: rest →
    step s = .next { s with events := rest }) ∧
  (∀ s : State, (∃ s', step s = .next s') ∨ ∃ t rest, s.events = .host t :: rest) ∧
  ∀ s : State, (∀ t, Event.host t ∉ s.events) → ∃ t, core.run (s.events.length + 1) s = .next t

/-! ### Registers and flags -/

/-- Issue (R91): what a CMD write does while BUSY = 0, with PEND's inputs those R73 lists, each from its own register, and
that it is no issue while BUSY = 1. The inputs a command in flight computes with are PEND's (R93). -/
def Obligations.CmdWriteIssues : Prop :=
  ∀ (s : State) (w : Word),
    (s.status.busy = false → hostStep (Transaction.writeReg .cmd w) s = .next
      { s with
        cmd := w
        pend := some
          { word := w
            inputs :=
              { srcAddr := s.srcAddr, srcLen := s.srcLen, dstAddr := s.dstAddr, keyAddr := s.keyAddr, keyLen := s.keyLen
                blk := s.blk, win := s.win, rk := s.rk, rkValid := s.status.rkValid } }
        status := { s.status with busy := true, done := false }
        irq := s.irqEn && s.status.err
        response := some .written }) ∧
    (∀ p, s.pend = some p → s.operands = p.inputs) ∧
    (s.status.busy = true → hostStep (Transaction.writeReg .cmd w) s = .next
      { s with
        status := { s.status with ovf := true }
        irq := s.irqEn && (s.status.done || s.status.err)
        response := some .written })

/-- STATUS as it reads, with the codes of R200, its reset value, and what a write of it does, whether or not CORE is busy
(R27). -/
def Obligations.StatusReadsAndClearsByField : Prop :=
  State.reset.readReg .status = 0 ∧ ∀ (s : State) (v : Word),
    (∃ w : Word, hostStep (Transaction.readReg .status) s = .next { s with response := some (.read (.word w)) } ∧
      w.toNat = s.status.busy.toNat + 2 * s.status.done.toNat + 4 * s.status.err.toNat + 8 * s.status.rkValid.toNat +
        16 * s.status.ovf.toNat + 256 * (match s.status.errCode with
          | .noError => 0
          | .illegalCmd => 1
          | .noKey => 2
          | .invalidInputLength => 3
          | .malformedHex => 4
          | .range => 5
          | .overlap => 6)) ∧
    ∃ st : Status, hostStep (Transaction.writeReg .status v) s = .next
        { s with status := st, irq := s.irqEn && (st.done || st.err), response := some .written } ∧
      st.busy = s.status.busy ∧ st.rkValid = s.status.rkValid ∧
      st.done = (if v.toNat / 2 % 2 = 1 then false else s.status.done) ∧
      st.err = (if v.toNat / 4 % 2 = 1 then false else s.status.err) ∧
      st.errCode = (if v.toNat / 4 % 2 = 1 then .noError else s.status.errCode) ∧
      st.ovf = (if v.toNat / 16 % 2 = 1 then false else s.status.ovf)

/-- CTRL as it reads and is written, whether or not CORE is busy, and its reset value (R26). -/
def Obligations.CtrlWriteSetsIrqEnableOrResets : Prop :=
  State.reset.readReg .ctrl = 0 ∧ ∀ (s : State) (v : Word),
    (∃ w : Word, hostStep (Transaction.readReg .ctrl) s = .next { s with response := some (.read (.word w)) } ∧
      w.toNat = s.irqEn.toNat) ∧
    (v.toNat < 2 ^ 31 → hostStep (Transaction.writeReg .ctrl v) s = .next
      { s with
        irqEn := decide (v.toNat % 2 = 1)
        irq := decide (v.toNat % 2 = 1) && (s.status.done || s.status.err)
        response := some .written }) ∧
    (2 ^ 31 ≤ v.toNat → ∃ t, hostStep (Transaction.writeReg .ctrl v) s = .next t ∧
      t = { s.softReset with response := some .written } ∧ t.irqEn = false ∧ t.irq = false)

/-- ID and VERSION read the same in every state, busy or not, and after either reset (R24, R25). -/
def Obligations.IdAndVersionNeverChange : Prop :=
  ∀ s : State,
    hostStep { offset := 0x000, access := .read .four } s =
      .next { s with response := some (.read (.word 0x4E4C4341)) } ∧
    hostStep { offset := 0x004, access := .read .four } s =
      .next { s with response := some (.read (.word 0x00000001)) } ∧
    ∀ t ∈ [s.hardReset true, s.hardReset false, s.softReset],
      t.readReg .id = 0x4E4C4341 ∧ t.readReg .version = 0x00000001

/-- While BUSY = 0 a read of each data, length, address or key register answers its value and changes nothing but the
response (R23, R34 to R42, R71). -/
def Obligations.RegisterReadsAnswerTheMap : Prop :=
  ∀ s : State, s.status.busy = false →
    ∀ q ∈ [(0x010, s.cmd), (0x014, s.srcAddr), (0x018, s.srcLen), (0x01C, s.dstAddr), (0x020, s.dstLen),
        (0x024, s.keyAddr), (0x028, s.keyLen), (0x030, s.blk.a), (0x034, s.blk.b), (0x038, s.blk.c), (0x03C, s.blk.d),
        (0x040, s.win), (0x044, s.wout), (0x048, s.kfold.setWidth 32), (0x04C, (s.kfold >>> 32).setWidth 32),
        (0x050, s.rk.rk0.setWidth 32), (0x054, (s.rk.rk0 >>> 32).setWidth 32),
        (0x058, s.rk.rk1.setWidth 32), (0x05C, (s.rk.rk1 >>> 32).setWidth 32),
        (0x060, s.rk.rk2.setWidth 32), (0x064, (s.rk.rk2 >>> 32).setWidth 32),
        (0x068, s.rk.rk3.setWidth 32), (0x06C, (s.rk.rk3 >>> 32).setWidth 32),
        (0x070, s.rk.rk4.setWidth 32), (0x074, (s.rk.rk4 >>> 32).setWidth 32)],
      hostStep { offset := q.1, access := .read .four } s = .next { s with response := some (.read (.word q.2)) }

/-- While BUSY = 0 a write of an RW data register stores the value and changes nothing else but the response (R35, R36,
R38, R39, R40). -/
def Obligations.DataRegisterWritesStore : Prop :=
  ∀ (s : State) (v : Word), s.status.busy = false →
    ∀ q ∈ [(0x014, { s with srcAddr := v }), (0x018, { s with srcLen := v }), (0x01C, { s with dstAddr := v }),
        (0x024, { s with keyAddr := v }), (0x028, { s with keyLen := v }),
        (0x030, { s with blk := { s.blk with a := v } }), (0x034, { s with blk := { s.blk with b := v } }),
        (0x038, { s with blk := { s.blk with c := v } }), (0x03C, { s with blk := { s.blk with d := v } }),
        (0x040, { s with win := v })],
      hostStep { offset := q.1, access := .write (.word v) } s = .next { q.2 with response := some .written }

/-- While BUSY = 0 a write to a read-only register is ignored with OK (R43). -/
def Obligations.ReadOnlyWritesAreIgnored : Prop :=
  ∀ (s : State) (v : Word), s.status.busy = false →
    ∀ n ∈ [0x000, 0x004, 0x020, 0x044, 0x048, 0x04C, 0x050, 0x054, 0x058, 0x05C, 0x060, 0x064, 0x068, 0x06C, 0x070,
        0x074],
      hostStep { offset := n, access := .write (.word v) } s = .next { s with response := some .written }

/-- The table of R240: what each admitted access does while BUSY = 1, and that a refused one still stops with BUSERR. -/
def Obligations.AccessesWhileBusy : Prop :=
  ∀ s : State, s.status.busy = true →
    let overrun : State :=
      { s with
        status := { s.status with ovf := true }
        irq := s.irqEn && (s.status.done || s.status.err)
        response := some .written }
    (∀ r ∈ [Reg.id, Reg.version, Reg.ctrl, Reg.status],
      hostStep (Transaction.readReg r) s = .next { s with response := some (.read (.word (s.readReg r))) }) ∧
    (∀ r ∉ [Reg.id, Reg.version, Reg.ctrl, Reg.status], ∃ v : Word,
      hostStep (Transaction.readReg r) s =
        .next { s with draws := s.draws + 1, response := some (.read (.word v)) }) ∧
    (∀ v : Word, hostStep (Transaction.writeReg .ctrl v) s = .next { s.writeCtrl v with response := some .written } ∧
      hostStep (Transaction.writeReg .status v) s = .next { s.writeStatus v with response := some .written }) ∧
    (∀ r ∉ [Reg.ctrl, Reg.status], ∀ v : Word, hostStep (Transaction.writeReg r v) s = .next overrun) ∧
    (∀ (a : Nat) (k : Access), a % k.size.bytes = 0 → a + k.size.bytes ≤ s.params.dmemBytes →
      match k with
      | .read size => ∃ d : Data, d.size = size ∧
          hostStep (Transaction.dmem a k) s = .next { s with draws := s.draws + 1, response := some (.read d) }
      | .write _ => hostStep (Transaction.dmem a k) s = .next overrun) ∧
    ∀ (t : Transaction) (f : Fault), target s.params t = .error f → hostStep t s = .fault f

/-- A transaction stops exactly where R63, R64 and R65 answer BUSERR or the offset is 0x20000 or more: everything else is a
4-byte access to a register of R23 or an aligned access within DMEM. R62 only bounds the offset; that one outside the
aperture stops is the model's choice (assumption 10, DESIGN CHOICE). -/
def Obligations.BuserrExactlyOnRefusedTransactions : Prop :=
  ∀ (s : State) (t : Transaction),
    (∃ f, hostStep t s = .fault f) ↔
      ¬ ((t.access.size = .four ∧ t.offset % 4 = 0 ∧ t.offset ≤ 0x74 ∧ t.offset ≠ 0x2C) ∨
        (0x10000 ≤ t.offset ∧ (t.offset - 0x10000) % t.access.size.bytes = 0 ∧
          t.offset - 0x10000 + t.access.size.bytes ≤ s.params.dmemBytes))

/-- DMEM accesses while BUSY = 0 (R65): big-endian writes of 1, 2 and 4 bytes that change no other byte, and big-endian
reads that change nothing; a misaligned access or one past the end stops (R61, R64, R65). For an address of 0x10000 or more,
whose offset is outside the aperture, that it stops is the model's choice (assumption 10, DESIGN CHOICE). -/
def Obligations.DmemAccessesAreBigEndian : Prop :=
  ∀ (s : State) (a : Nat), s.status.busy = false →
    (∀ d : Data, a % d.size.bytes = 0 → a + d.size.bytes ≤ s.params.dmemBytes →
      ∃ m, hostStep (Transaction.dmem a (.write d)) s = .next { s with dmem := m, response := some .written } ∧
        s.dmem.SameOutside m a d.size.bytes ∧
        (match d with
          | .byte v => m.get? a = some v
          | .half v => m.get? a = some (v.extractLsb' 8 8) ∧ m.get? (a + 1) = some (v.extractLsb' 0 8)
          | .word v => m.get? a = some (v.extractLsb' 24 8) ∧ m.get? (a + 1) = some (v.extractLsb' 16 8) ∧
              m.get? (a + 2) = some (v.extractLsb' 8 8) ∧ m.get? (a + 3) = some (v.extractLsb' 0 8))) ∧
    (∀ size : AccessSize, a % size.bytes = 0 → a + size.bytes ≤ s.params.dmemBytes →
      ∃ bs n d, bs.length = size.bytes ∧ s.dmem.Reads a bs ∧ s.draws ≤ n ∧
        hostStep (Transaction.dmem a (.read size)) s = .next { s with draws := n, response := some (.read d) } ∧
        (match d, bs with
          | .byte v, [b0] => v = b0
          | .half v, [b0, b1] => v.toNat = 256 * b0.toNat + b1.toNat
          | .word v, [b0, b1, b2, b3] =>
              v.toNat = 256 * (256 * (256 * b0.toNat + b1.toNat) + b2.toNat) + b3.toNat
          | _, _ => False)) ∧
    ∀ k : Access, (a % k.size.bytes ≠ 0 ∨ s.params.dmemBytes < a + k.size.bytes) →
      ∃ f, hostStep (Transaction.dmem a k) s = .fault f

/-- A 4-byte read inside a block at a 4-aligned address answers the block's word, and a 1-byte read of its first byte
that word's bits 31:24 (R70). -/
def Obligations.WordReadsAnswerTheBlockWords : Prop :=
  ∀ (s : State) (p : Nat) (b : Block), s.status.busy = false → p % 4 = 0 → p + 16 ≤ s.params.dmemBytes →
    s.dmem.Holds p b.toBytes →
    ∀ q ∈ [(0, b.a), (1, b.b), (2, b.c), (3, b.d)],
      hostStep (Transaction.dmem (p + 4 * q.1) (.read .four)) s =
          .next { s with response := some (.read (.word q.2)) } ∧
        hostStep (Transaction.dmem (p + 4 * q.1) (.read .one)) s =
          .next { s with response := some (.read (.byte (q.2.extractLsb' 24 8))) }

/-- A byte that nothing has written reads as a fresh draw, and stays unspecified (R66). That the draw is
`Config.freeByte` at the state's counter is the model's choice (assumption 2). -/
def Obligations.UnwrittenByteReadsAsAFreshDraw : Prop :=
  ∀ (s : State) (a : Nat), s.status.busy = false → a < s.params.dmemBytes → s.dmem.get? a = none →
    hostStep (Transaction.dmem a (.read .one)) s =
      .next { s with draws := s.draws + 1, response := some (.read (.byte (Config.freeByte s.draws))) }

/-! ### Reset -/

/-- Soft reset (R231), whether BUSY is 0 or 1: the registers of R46, PEND abandoned, and exactly the destination region of
an abandoned memory command made unspecified. For an ECB_DEC or HEX_DEC whose length form is wrong, that the region is n or
n / 2 bytes is the model's choice (assumption 7). -/
def Obligations.SoftResetKeepsDmemButTheAbandonedRegion : Prop :=
  ∀ (s : State) (v : Word), 2 ^ 31 ≤ v.toNat →
    ∃ m, hostStep (Transaction.writeReg .ctrl v) s = .next
        { State.reset with
          params := s.params, rstN := s.rstN, draws := s.draws, events := s.events
          dmem := m, response := some .written } ∧
      (s.pend = none → m = s.dmem) ∧
      ∀ p, s.pend = some p →
        let n := p.inputs.srcLen.toNat
        let spoils (outlen : Nat) : Prop := ∀ x, m.get? x =
          if p.inputs.dstAddr.toNat ≤ x ∧ x < p.inputs.dstAddr.toNat + outlen then none else s.dmem.get? x
        (p.word = 0x00000009 → spoils (16 * ((n + 15) / 16))) ∧ (p.word = 0x0000000A → spoils n) ∧
        (p.word = 0x0000000B → spoils (2 * n)) ∧ (p.word = 0x0000000C → spoils (n / 2)) ∧
        (p.word ∉ [0x00000009, 0x0000000A, 0x0000000B, 0x0000000C] → m = s.dmem)

/-- Hardware reset (R230): both edges of `rst_n` give every register its reset value, abandon PEND and make all of DMEM
unspecified, and a host transaction while it is low has no step. -/
def Obligations.HardResetClearsEverything : Prop :=
  ∀ (s : State) (rest : List Event),
    (∀ level : Bool, s.events = (if level then .rstHigh else .rstLow) :: rest → ∃ t, step s = .next t ∧
      t = { State.reset with params := s.params, rstN := level, draws := s.draws, events := rest } ∧
      ∀ a, t.dmem.get? a = none) ∧
    ∀ t, s.rstN = false → s.events = .host t :: rest → step s = .refused .hostTransactionInReset

/-- The reset value of every register, STATUS field, PEND and `irq` (R46), after `rst_n` and after a soft reset. -/
def Obligations.ResetValuesOfEveryRegister : Prop :=
  ∀ (s : State), ∀ t ∈ [State.reset, s.hardReset true, s.hardReset false, s.softReset],
    (∀ r : Reg, t.readReg r =
      match r with
      | .id => 0x4E4C4341
      | .version => 0x00000001
      | _ => 0x00000000) ∧
    t.status = { busy := false, done := false, err := false, rkValid := false, ovf := false, errCode := .noError } ∧
    t.irqEn = false ∧ t.kfold = 0 ∧ t.rk = { rk0 := 0, rk1 := 0, rk2 := 0, rk3 := 0, rk4 := 0 } ∧
    t.pend = none ∧ t.irq = false

/-! ### Commands: completion, result and frame -/

/-- NOP does nothing but complete (R100) and KCLEAR clears the key registers and RK_VALID (R114), in every state. -/
def Obligations.NopAndKclearComplete : Prop :=
  ∀ s : State,
    exec .nop s = .next s.succeeded ∧
    exec .kclear s = .next ({ s with
      kfold := 0
      rk := { rk0 := 0, rk1 := 0, rk2 := 0, rk3 := 0, rk4 := 0 }
      status := { s.status with rkValid := false } }).succeeded

/-- KSCHED with a valid key region loads the fold and the five round keys of the key bytes (R113). -/
def Obligations.KschedLoadsTheKeyRegisters : Prop :=
  ∀ s : State, Claims.Valid s s.operands.keyAddr s.operands.keyLen.toNat →
    ∃ key n, key.length = s.operands.keyLen.toNat ∧ s.dmem.Reads s.operands.keyAddr.toNat key ∧ s.draws ≤ n ∧
      exec .ksched s = .next ({ s with
        kfold := keyFold key
        rk := expand (keyFold key)
        draws := n
        status := { s.status with rkValid := true } }).succeeded

/-- SUBST writes the substituted WIN to WOUT in every state (R123), and ROUNDF r writes F(WIN, RKr) with r = 0..4 and
RK_VALID = 1 (R124). -/
def Obligations.SubstAndRoundfWriteWout : Prop :=
  ∀ s : State,
    exec .subst s = .next ({ s with wout := substitute s.operands.win }).succeeded ∧
    (s.operands.rkValid = true → ∀ r : Fin 5,
      exec (.roundf (BitVec.ofNat 3 r.val)) s =
        .next ({ s with wout := roundF s.operands.win (s.operands.rk.get r) }).succeeded)

/-- RND_ENC r and RND_DEC r with r = 0..4 and RK_VALID = 1 run one round on the block registers (R133, R134). -/
def Obligations.RoundCommandsTransformTheBlock : Prop :=
  ∀ s : State, s.operands.rkValid = true → ∀ r : Fin 5,
    exec (.rndEnc (BitVec.ofNat 3 r.val)) s =
        .next ({ s with blk := roundEnc s.operands.blk (s.operands.rk.get r) }).succeeded ∧
      exec (.rndDec (BitVec.ofNat 3 r.val)) s =
        .next ({ s with blk := roundDec s.operands.blk (s.operands.rk.get r) }).succeeded

/-- BLK_ENC runs the rounds with RK0 to RK4 in that order, BLK_DEC the inverse rounds with RK4 first (R135, R136). -/
def Obligations.BlockCommandsRunFiveRounds : Prop :=
  ∀ s : State, s.operands.rkValid = true →
    let b := s.operands.blk
    let k := s.operands.rk
    exec .blkEnc s = .next ({ s with
        blk := roundEnc (roundEnc (roundEnc (roundEnc (roundEnc b k.rk0) k.rk1) k.rk2) k.rk3) k.rk4 }).succeeded ∧
      exec .blkDec s = .next ({ s with
        blk := roundDec (roundDec (roundDec (roundDec (roundDec b k.rk4) k.rk3) k.rk2) k.rk1) k.rk0 }).succeeded

/-- ECB_ENC with valid regions that do not overlap writes the encryption of each zero-padded chunk to the destination and
nothing elsewhere, sets DST_LEN to the padded length and discards the key (R153, R156). -/
def Obligations.EcbEncWritesTheCiphertext : Prop :=
  ∀ s : State,
    let x := s.operands
    let n := x.srcLen.toNat
    let outlen := 16 * ((n + 15) / 16)
    Claims.Valid s x.keyAddr x.keyLen.toNat → Claims.Valid s x.srcAddr n → Claims.Valid s x.dstAddr outlen →
    ¬ Claims.Overlap x.srcAddr n x.dstAddr outlen →
    ∃ key p m d, key.length = x.keyLen.toNat ∧ s.dmem.Reads x.keyAddr.toNat key ∧
      p.length = n ∧ s.dmem.Reads x.srcAddr.toNat p ∧ s.draws ≤ d ∧
      exec .ecbEnc s = .next ({ s with
        dmem := m
        dstLen := BitVec.ofNat 32 outlen
        kfold := 0
        rk := { rk0 := 0, rk1 := 0, rk2 := 0, rk3 := 0, rk4 := 0 }
        draws := d
        status := { s.status with rkValid := false } }).succeeded ∧
      s.dmem.SameOutside m x.dstAddr.toNat outlen ∧
      ∀ j < (n + 15) / 16, m.Holds (x.dstAddr.toNat + 16 * j)
        (blockEncrypt (Block.ofBytes (Claims.chunkBytes p j)) (expand (keyFold key))).toBytes

/-- ECB_DEC of a length that is a multiple of 16, with valid regions that do not overlap, writes all n decrypted bytes,
sets DST_LEN to the length without trailing zeros and discards the key (R154, R156). -/
def Obligations.EcbDecWritesThePlaintext : Prop :=
  ∀ s : State,
    let x := s.operands
    let n := x.srcLen.toNat
    n % 16 = 0 → Claims.Valid s x.keyAddr x.keyLen.toNat → Claims.Valid s x.srcAddr n → Claims.Valid s x.dstAddr n →
    ¬ Claims.Overlap x.srcAddr n x.dstAddr n →
    ∃ key c out m d, key.length = x.keyLen.toNat ∧ s.dmem.Reads x.keyAddr.toNat key ∧
      c.length = n ∧ s.dmem.Reads x.srcAddr.toNat c ∧ out.length = n ∧ s.draws ≤ d ∧
      exec .ecbDec s = .next ({ s with
        dmem := m
        dstLen := BitVec.ofNat 32 (Claims.strip out).length
        kfold := 0
        rk := { rk0 := 0, rk1 := 0, rk2 := 0, rk3 := 0, rk4 := 0 }
        draws := d
        status := { s.status with rkValid := false } }).succeeded ∧
      s.dmem.SameOutside m x.dstAddr.toNat n ∧ m.Holds x.dstAddr.toNat out ∧
      ∀ j < n / 16, (out.drop (16 * j)).take 16 =
        (blockDecrypt (Block.ofBytes (Claims.chunkBytes c j)) (expand (keyFold key))).toBytes

/-- HEX_ENC with valid regions that do not overlap writes the two characters of source byte j at offsets 2j and 2j+1 and
sets DST_LEN to 2n; the key registers and RK_VALID are unchanged (R69, R173). -/
def Obligations.HexEncWritesTheText : Prop :=
  ∀ s : State,
    let x := s.operands
    let n := x.srcLen.toNat
    Claims.Valid s x.srcAddr n → Claims.Valid s x.dstAddr (2 * n) → ¬ Claims.Overlap x.srcAddr n x.dstAddr (2 * n) →
    ∃ b m d, b.length = n ∧ s.dmem.Reads x.srcAddr.toNat b ∧ s.draws ≤ d ∧
      exec .hexEnc s = .next ({ s with dmem := m, dstLen := BitVec.ofNat 32 (2 * n), draws := d }).succeeded ∧
      s.dmem.SameOutside m x.dstAddr.toNat (2 * n) ∧
      ∀ j < n,
        m.get? (x.dstAddr.toNat + 2 * j) = some (BitVec.ofNat 8 (Claims.charValue ((b.getD j 0).toNat / 16))) ∧
        m.get? (x.dstAddr.toNat + 2 * j + 1) = some (BitVec.ofNat 8 (Claims.charValue ((b.getD j 0).toNat % 16)))

/-- HEX_DEC of an even length, with valid regions that do not overlap and a written text of hex characters only, writes one
byte for each pair and sets DST_LEN to n/2 (R174). -/
def Obligations.HexDecWritesTheBytes : Prop :=
  ∀ (s : State) (c : List Byte),
    let x := s.operands
    let n := x.srcLen.toNat
    n % 2 = 0 → Claims.Valid s x.srcAddr n → Claims.Valid s x.dstAddr (n / 2) →
    ¬ Claims.Overlap x.srcAddr n x.dstAddr (n / 2) →
    c.length = n → s.dmem.Holds x.srcAddr.toNat c → (∀ ch ∈ c, Claims.IsHex s.params.hexAcceptUpper ch) →
    ∃ m, exec .hexDec s = .next ({ s with dmem := m, dstLen := BitVec.ofNat 32 (n / 2) }).succeeded ∧
      s.dmem.SameOutside m x.dstAddr.toNat (n / 2) ∧
      ∀ j < n / 2, m.get? (x.dstAddr.toNat + j) =
        some (BitVec.ofNat 8 (16 * Claims.hexValue (c.getD (2 * j) 0) + Claims.hexValue (c.getD (2 * j + 1) 0)))

/-! ### Commands: failures -/

/-- The register-key commands fail with NO_KEY when RK_VALID = 0, and RIDX 5 to 7 fails with ILLEGAL_CMD before that check
(R124, R133 to R136, R202). -/
def Obligations.KeyCommandsFailWithoutAKey : Prop :=
  ∀ s : State,
    (s.operands.rkValid = false →
      (∀ r : Fin 5, ∀ f ∈ [Instr.roundf, Instr.rndEnc, Instr.rndDec],
        exec (f (BitVec.ofNat 3 r.val)) s = .next (s.failed .noKey)) ∧
      exec .blkEnc s = .next (s.failed .noKey) ∧ exec .blkDec s = .next (s.failed .noKey)) ∧
    ∀ r : BitVec 3, 5 ≤ r.toNat → ∀ f ∈ [Instr.roundf, Instr.rndEnc, Instr.rndDec],
      exec (f r) s = .next (s.failed .illegalCmd)

/-- The checks of KSCHED, ECB_ENC and HEX_ENC in the order of R202: RANGE for an invalid region (R95, R96), then OVERLAP
(R98). -/
def Obligations.RangeThenOverlapChecks : Prop :=
  ∀ s : State,
    let x := s.operands
    let n := x.srcLen.toNat
    let e := 16 * ((n + 15) / 16)
    let key := Claims.Valid s x.keyAddr x.keyLen.toNat
    let src := Claims.Valid s x.srcAddr n
    (¬ key → exec .ksched s = .next (s.failed .range)) ∧
    (¬ (key ∧ src ∧ Claims.Valid s x.dstAddr e) → exec .ecbEnc s = .next (s.failed .range)) ∧
    (key ∧ src ∧ Claims.Valid s x.dstAddr e → Claims.Overlap x.srcAddr n x.dstAddr e →
      exec .ecbEnc s = .next (s.failed .overlap)) ∧
    (¬ (src ∧ Claims.Valid s x.dstAddr (2 * n)) → exec .hexEnc s = .next (s.failed .range)) ∧
    (src ∧ Claims.Valid s x.dstAddr (2 * n) → Claims.Overlap x.srcAddr n x.dstAddr (2 * n) →
      exec .hexEnc s = .next (s.failed .overlap))

/-- The checks of ECB_DEC in the order of R202: INVALID_INPUT_LENGTH, then RANGE, then OVERLAP (R154). -/
def Obligations.EcbDecChecksLengthFirst : Prop :=
  ∀ s : State,
    let x := s.operands
    let n := x.srcLen.toNat
    let valid := Claims.Valid s x.keyAddr x.keyLen.toNat ∧ Claims.Valid s x.srcAddr n ∧ Claims.Valid s x.dstAddr n
    (n % 16 ≠ 0 → exec .ecbDec s = .next (s.failed .invalidInputLength)) ∧
    (n % 16 = 0 → ¬ valid → exec .ecbDec s = .next (s.failed .range)) ∧
    (n % 16 = 0 → valid → Claims.Overlap x.srcAddr n x.dstAddr n → exec .ecbDec s = .next (s.failed .overlap))

/-- The checks of HEX_DEC in the order of R202: odd length, RANGE, OVERLAP, then the content (R174). A malformed text that
is written fails with no other effect. -/
def Obligations.HexDecChecksContentLast : Prop :=
  ∀ (s : State) (c : List Byte),
    let x := s.operands
    let n := x.srcLen.toNat
    let valid := Claims.Valid s x.srcAddr n ∧ Claims.Valid s x.dstAddr (n / 2)
    (n % 2 ≠ 0 → exec .hexDec s = .next (s.failed .malformedHex)) ∧
    (n % 2 = 0 → ¬ valid → exec .hexDec s = .next (s.failed .range)) ∧
    (n % 2 = 0 → valid → Claims.Overlap x.srcAddr n x.dstAddr (n / 2) → exec .hexDec s = .next (s.failed .overlap)) ∧
    (n % 2 = 0 → valid → ¬ Claims.Overlap x.srcAddr n x.dstAddr (n / 2) → c.length = n →
      s.dmem.Holds x.srcAddr.toNat c → (∃ ch ∈ c, ¬ Claims.IsHex s.params.hexAcceptUpper ch) →
      exec .hexDec s = .next (s.failed .malformedHex))

/-- Every command completes in every state, as a failure or as a success (R30, R33, R99, R203). A failure changes only what
R203 names (and the draws it took). A success carries ERR and ERRCODE through whatever they hold: from the state with any
other ERR and ERRCODE it gives the same state with those, so a command that sets or repeats a code is no success. -/
def Obligations.FailureIsAtomic : Prop :=
  ∀ (i : Instr) (s : State), ∃ t, exec i s = .next t ∧
    t.pend = none ∧ t.status.busy = false ∧ t.status.done = true ∧ t.irq = s.irqEn ∧
    ((∃ code d, code ≠ .noError ∧ t = ({ s with draws := d }).failed code) ∨
      ∀ (e : Bool) (c : ErrCode), exec i { s with status := { s.status with err := e, errCode := c } } =
        .next { t with status := { t.status with err := e, errCode := c } })

/-! ### Commands: frames over all instructions -/

/-- No command changes what only the host writes: IRQ_EN, OVF, CMD, the region registers and WIN; nor the parameters, the
reset pin, the events and the response (R26, R32, R35, R36, R38, R40). -/
def Obligations.NoCommandWritesHostOwnedState : Prop :=
  ∀ (i : Instr) (s t : State), exec i s = .next t →
    t.params = s.params ∧ t.rstN = s.rstN ∧ t.irqEn = s.irqEn ∧ t.status.ovf = s.status.ovf ∧ t.cmd = s.cmd ∧
      t.srcAddr = s.srcAddr ∧ t.srcLen = s.srcLen ∧ t.dstAddr = s.dstAddr ∧ t.keyAddr = s.keyAddr ∧
      t.keyLen = s.keyLen ∧ t.win = s.win ∧ t.events = s.events ∧ t.response = s.response

/-- Only these commands write this register (R31, R37, R39, R40, R41, R42): a command outside the list leaves it. -/
def Obligations.OnlyTheseCommandsWriteEachRegister : Prop :=
  ∀ (i : Instr) (s t : State), exec i s = .next t →
    (i ∉ [.ksched, .kclear, .ecbEnc, .ecbDec] →
      t.kfold = s.kfold ∧ t.rk = s.rk ∧ t.status.rkValid = s.status.rkValid) ∧
    (i ∉ [.ecbEnc, .ecbDec, .hexEnc, .hexDec] → t.dstLen = s.dstLen ∧ t.dmem = s.dmem) ∧
    ((∀ r, i ≠ .rndEnc r ∧ i ≠ .rndDec r) → i ∉ [.blkEnc, .blkDec] → t.blk = s.blk) ∧
    ((∀ r, i ≠ .roundf r) → i ≠ .subst → t.wout = s.wout)

/-- A memory command changes no DMEM byte outside its destination region (DST_ADDR, outlen) (R67, R97). -/
def Obligations.MemoryCommandsWriteOnlyTheDestination : Prop :=
  ∀ (s t : State),
    let a := s.operands.dstAddr.toNat
    let n := s.operands.srcLen.toNat
    (exec .ecbEnc s = .next t → s.dmem.SameOutside t.dmem a (16 * ((n + 15) / 16))) ∧
    (exec .ecbDec s = .next t → s.dmem.SameOutside t.dmem a n) ∧
    (exec .hexEnc s = .next t → s.dmem.SameOutside t.dmem a (2 * n)) ∧
    (exec .hexDec s = .next t → s.dmem.SameOutside t.dmem a (n / 2))

/-- A command's result depends on its word, the sampled inputs and DMEM alone (R73, R94): two states with the same PEND and
DMEM (and the same parameters and draws), whatever else they hold, give the same DMEM, and each register a command can
write is left as it was in both or ends equal in both; the same of ERR with ERRCODE. -/
def Obligations.CommandsDependOnlyOnTheirInputs : Prop :=
  ∀ (i : Instr) (s s' t t' : State) (p : Pending), s.pend = some p → s'.pend = some p →
    s'.params = s.params → s'.dmem = s.dmem → s'.draws = s.draws →
    exec i s = .next t → exec i s' = .next t' →
    t'.dmem = t.dmem ∧ t'.draws = t.draws ∧
      ((t.blk = s.blk ∧ t'.blk = s'.blk) ∨ t'.blk = t.blk) ∧
      ((t.wout = s.wout ∧ t'.wout = s'.wout) ∨ t'.wout = t.wout) ∧
      ((t.dstLen = s.dstLen ∧ t'.dstLen = s'.dstLen) ∨ t'.dstLen = t.dstLen) ∧
      ((t.kfold = s.kfold ∧ t'.kfold = s'.kfold) ∨ t'.kfold = t.kfold) ∧
      ((t.rk = s.rk ∧ t'.rk = s'.rk) ∨ t'.rk = t.rk) ∧
      ((t.status.rkValid = s.status.rkValid ∧ t'.status.rkValid = s'.status.rkValid) ∨
        t'.status.rkValid = t.status.rkValid) ∧
      ((t.status.err = s.status.err ∧ t.status.errCode = s.status.errCode ∧
          t'.status.err = s'.status.err ∧ t'.status.errCode = s'.status.errCode) ∨
        (t'.status.err = t.status.err ∧ t'.status.errCode = t.status.errCode))

/-! ### The algorithm -/

/-- substitute replaces nibble k by its S-box value in place, and nothing crosses lanes (R120, R121). -/
def Obligations.SubstituteReplacesEachNibble : Prop :=
  ∀ (w : Word), ∀ k < 8,
    (substitute w).toNat / 16 ^ k % 16 = Claims.sboxValues.getD (w.toNat / 16 ^ k % 16) 0

/-- The S-box is the printed table and a bijection, with the inverse R120 gives for reference; so `substitute` is
injective. -/
def Obligations.SboxIsABijection : Prop :=
  (∀ v : BitVec 4, (sbox v).toNat = Claims.sboxValues.getD v.toNat 0 ∧
    [4, 3, 12, 0, 8, 6, 15, 5, 13, 11, 7, 10, 9, 14, 2, 1].getD (sbox v).toNat 0 = v.toNat) ∧
  ∀ w w' : Word, substitute w = substitute w' → w = w'

/-- F rotates by 4, masks with rk32, substitutes and ORs rk32 (R122). -/
def Obligations.RoundFunctionIsR122 : Prop :=
  ∀ (x : Word) (rk : DWord),
    let k := BitVec.ofNat 32 (rk.toNat % 2 ^ 32)
    let rotated := BitVec.ofNat 32 (x.toNat * 16 % 2 ^ 32 + x.toNat / 2 ^ 28)
    roundF x rk = substitute (rotated &&& k) ||| k

/-- The properties of F (R125): key bits set stay set, an output bit where rk32 is 0 is that of substitute(masked), a zero
nibble of rk32 gives the nibble S[0] = 3, only rk32 matters, and F is not a bijection in x in general. -/
def Obligations.RoundFunctionProperties : Prop :=
  (∃ (x x' : Word) (rk : DWord), x ≠ x' ∧ roundF x rk = roundF x' rk) ∧ ∀ (x : Word) (rk rk' : DWord),
    let k := rk.setWidth 32
    roundF x rk &&& k = k ∧
    (∀ j < 32, k.getLsbD j = false →
      (roundF x rk).getLsbD j = (substitute (x.rotateLeft 4 &&& k)).getLsbD j ∧
        (x.rotateLeft 4 &&& k).getLsbD j = false) ∧
    (∀ j < 8, k.toNat / 16 ^ j % 16 = 0 → (roundF x rk).toNat / 16 ^ j % 16 = 3) ∧
    (rk'.setWidth 32 = k → roundF x rk' = roundF x rk)

/-- One forward and one inverse round, word by word, with NOT_32(a) = (2^32 − 1) − a (R10, R130, R131). -/
def Obligations.RoundsAreR130AndR131 : Prop :=
  ∀ (a b c d : Word) (rk : DWord),
    let k := BitVec.ofNat 32 (rk.toNat % 2 ^ 32)
    let x := BitVec.allOnes 32 - (a ^^^ k)
    let y := BitVec.allOnes 32 - (d ^^^ k)
    roundEnc { a := a, b := b, c := c, d := d } rk =
        { a := b ^^^ roundF y rk, b := y, c := x, d := c ^^^ roundF x rk } ∧
      roundDec { a := a, b := b, c := c, d := d } rk =
        { a := (BitVec.allOnes 32 - c) ^^^ k, b := a ^^^ roundF b rk, c := d ^^^ roundF c rk,
          d := (BitVec.allOnes 32 - b) ^^^ k }

/-- "roundDec(roundEnc(s, rk), rk) = s, and roundEnc(roundDec(s, rk), rk) = s" (R132). -/
def Obligations.RoundsAreInverse : Prop :=
  ∀ (st : Block) (rk : DWord), roundDec (roundEnc st rk) rk = st ∧ roundEnc (roundDec st rk) rk = st

/-- The block inverse law, both ways (R137), and at the machine over issued commands: with RK_VALID = 1, BLK_ENC issued and
completed transforms the block registers and BLK_DEC after it restores them, and the other way round; both succeed, and the
round keys and DMEM stay. -/
def Obligations.BlockTransformsAreInverse : Prop :=
  (∀ (st : Block) (k : RoundKeys),
    blockDecrypt (blockEncrypt st k) k = st ∧ blockEncrypt (blockDecrypt st k) k = st) ∧
  ∀ s : State, s.status.rkValid = true →
    ∀ q ∈ [((0x00000007 : Word), (0x00000008 : Word), blockEncrypt s.blk s.rk),
        (0x00000008, 0x00000007, blockDecrypt s.blk s.rk)],
      ∃ t u, coreStep (s.issue q.1) = .next t ∧ t.blk = q.2.2 ∧ coreStep (t.issue q.2.1) = .next u ∧
        u.blk = s.blk ∧ u.rk = s.rk ∧ u.dmem = s.dmem ∧
        t.status.err = s.status.err ∧ t.status.errCode = s.status.errCode ∧
        u.status.err = s.status.err ∧ u.status.errCode = s.status.errCode

/-- Mirror symmetry (R138): A = D and B = C is kept by both rounds and both block transforms. -/
def Obligations.MirrorStatesStayMirrored : Prop :=
  ∀ (st : Block) (rk : DWord) (k : RoundKeys), st.a = st.d → st.b = st.c →
    ∀ st' ∈ [roundEnc st rk, roundDec st rk, blockEncrypt st k, blockDecrypt st k], st'.a = st'.d ∧ st'.b = st'.c

/-- The key fold is the last min(L, 8) key bytes, the last one in bits 7:0 (R110). -/
def Obligations.KeyFoldIsTheLastEightBytes : Prop :=
  ∀ k : List Byte, (keyFold k).toNat = (k.drop (k.length - 8)).foldl (fun n b => 256 * n + b.toNat) 0 ∧
    (keyFold k).toNat = k.foldl (fun n b => (256 * n + b.toNat) % 2 ^ 64) 0

/-- The five round keys are five LCG steps from the fold, exact and reduced mod 2^64 (R111, R112). -/
def Obligations.RoundKeysAreFiveLcgSteps : Prop :=
  (∀ k : List Byte, keySchedule k = expand (keyFold k)) ∧ ∀ seed : DWord,
    let next (n : Nat) : Nat := (n * 6364136223846793005 + 1442695040888963407) % 2 ^ 64
    let k := expand seed
    k.rk0.toNat = next seed.toNat ∧ k.rk1.toNat = next k.rk0.toNat ∧ k.rk2.toNat = next k.rk1.toNat ∧
      k.rk3.toNat = next k.rk2.toNat ∧ k.rk4.toNat = next k.rk3.toNat

/-- The empty key and every all-zero key give the round keys R117 prints. -/
def Obligations.ZeroKeysGiveTheConstantsOfR117 : Prop :=
  ∀ n : Nat, keyFold (List.replicate n 0) = 0 ∧ keySchedule (List.replicate n 0) =
    { rk0 := 0x14057B7EF767814F, rk1 := 0x1A08EE1184BA6D32, rk2 := 0x9AF678222E728119, rk3 := 0x66B61AE97F2099B4,
      rk4 := 0x62354CDA6226D1F3 }

/-- Only the low 32 bits of the fold, which are the last min(L, 4) key bytes, reach any output of the cipher (R116). -/
def Obligations.OnlyTheLastFourKeyBytesReachTheCipher : Prop :=
  (∀ key : List Byte, (keyFold key).toNat % 2 ^ 32 =
    (key.drop (key.length - 4)).foldl (fun n b => 256 * n + b.toNat) 0) ∧
  ∀ key key' : List Byte, (keyFold key).toNat % 2 ^ 32 = (keyFold key').toNat % 2 ^ 32 →
    (∀ p : List Byte, ecbEncrypt p (keySchedule key) = ecbEncrypt p (keySchedule key') ∧
      ecbDecrypt p (keySchedule key) = ecbDecrypt p (keySchedule key')) ∧
    (∀ st : Block, blockEncrypt st (keySchedule key) = blockEncrypt st (keySchedule key') ∧
      blockDecrypt st (keySchedule key) = blockDecrypt st (keySchedule key')) ∧
    ∀ (r : Fin 5) (x : Word) (st : Block),
      rk32 ((keySchedule key).get r) = rk32 ((keySchedule key').get r) ∧
      roundF x ((keySchedule key).get r) = roundF x ((keySchedule key').get r) ∧
      roundEnc st ((keySchedule key).get r) = roundEnc st ((keySchedule key').get r) ∧
      roundDec st ((keySchedule key).get r) = roundDec st ((keySchedule key').get r)

/-- "identical plaintext blocks under the same key always produce identical ciphertext blocks" (R155), and more: block j of
the ciphertext depends on chunk j alone (R151, R158). -/
def Obligations.EqualChunksGiveEqualCiphertextBlocks : Prop :=
  ∀ (p p' : List Byte) (k : RoundKeys) (j j' : Nat), j < (p.length + 15) / 16 → j' < (p'.length + 15) / 16 →
    Claims.chunkBytes p j = Claims.chunkBytes p' j' →
    ((ecbEncrypt p k).drop (16 * j)).take 16 = ((ecbEncrypt p' k).drop (16 * j')).take 16

/-- The strip of R152 leaves the shortest length after which the whole buffer is 0x00, across block boundaries. -/
def Obligations.DepaddingStripsAllTrailingZeros : Prop :=
  ∀ out : List Byte,
    (∀ i, depadFrom out out.length ≤ i → i < out.length → out.getD i 0 = 0) ∧
    (depadFrom out out.length ≠ 0 → out.getD (depadFrom out out.length - 1) 0 ≠ 0) ∧
    depadFrom out out.length = (Claims.strip out).length

/-- ECB_ENC of a written text and then ECB_DEC of the result under the same key, with any other registers set in between,
gives the text back less its trailing zeros, followed by zeros (R157; the text with no trailing 0x00, or empty, comes back
whole). The key is written and does not overlap the ciphertext. -/
def Obligations.EcbEncThenEcbDecRestoresThePlaintext : Prop :=
  ∀ (s t u : State) (key p : List Byte),
    let x := s.operands
    let y := u.operands
    let outlen := 16 * ((p.length + 15) / 16)
    key.length = x.keyLen.toNat → s.dmem.Holds x.keyAddr.toNat key →
    p.length = x.srcLen.toNat → s.dmem.Holds x.srcAddr.toNat p →
    Claims.Valid s x.keyAddr key.length → Claims.Valid s x.srcAddr p.length → Claims.Valid s x.dstAddr outlen →
    ¬ Claims.Overlap x.srcAddr p.length x.dstAddr outlen → ¬ Claims.Overlap x.keyAddr key.length x.dstAddr outlen →
    exec .ecbEnc s = .next t →
    u.params = s.params → u.dmem = t.dmem → y.keyAddr = x.keyAddr → y.keyLen = x.keyLen →
    y.srcAddr = x.dstAddr → y.srcLen = t.dstLen → Claims.Valid u y.dstAddr outlen →
    ¬ Claims.Overlap y.srcAddr outlen y.dstAddr outlen →
    ∃ v, exec .ecbDec u = .next v ∧ v.status.errCode = u.status.errCode ∧
      v.dstLen.toNat = (Claims.strip p).length ∧
      v.dmem.Holds y.dstAddr.toNat (p ++ List.replicate (outlen - p.length) 0)

/-- "hexToBytes(bytesToHex(B)) = B" for every byte list, and for every text T that hexToBytes accepts,
"bytesToHex(hexToBytes(T))" is T with 'A'–'F' mapped to 'a'–'f' (R176), whether or not upper case is accepted. -/
def Obligations.HexRoundTrip : Prop :=
  ∀ up : Bool, (∀ b : List Byte, hexToBytes up (bytesToHex b) = some b) ∧
    ∀ c b : List Byte, hexToBytes up c = some b →
      bytesToHex b = c.map fun ch => if 0x41 ≤ ch.toNat ∧ ch.toNat ≤ 0x46 then ch + 0x20 else ch

/-- A text is accepted exactly when its length is even and every character is a hex digit, an upper-case one only where the
parameter accepts it (R170, R172, R175); then byte j comes from characters 2j and 2j + 1. -/
def Obligations.HexTextIsAcceptedExactlyWhenValid : Prop :=
  ∀ (c : List Byte) (up : Bool),
    ((∃ b, hexToBytes up c = some b) ↔ c.length % 2 = 0 ∧ ∀ ch ∈ c, Claims.IsHex up ch) ∧
    ∀ b, hexToBytes up c = some b → b.length = c.length / 2 ∧ ∀ j < b.length,
      (b.getD j 0).toNat = 16 * Claims.hexValue (c.getD (2 * j) 0) + Claims.hexValue (c.getD (2 * j + 1) 0)
end

