-- ==== Sys2Proof/Laws/Memory.lean ====
section
/-!
SUPPORT. The laws of DMEM: a read after a write, what a write and a soft reset leave alone, and that every operation keeps
the canonical form.
-/

namespace Sys2Proof.Machine

/-- Say of a byte what `Memory.set` does to it. -/
theorem Memory.get?_set (m : Memory) (a : Nat) (v : Byte) (x : Nat) :
    (m.set a v).get? x = if x = a then some v else m.get? x := by
  induction m with
  | nil => simp [Memory.set, Memory.get?, eq_comm (a := a)]
  | cons c m ih =>
    obtain ⟨b, w⟩ := c
    simp only [Memory.set]
    by_cases h1 : a < b
    · rw [if_pos h1]
      by_cases hx : x = a
      · simp [Memory.get?, hx]
      · simp [Memory.get?, hx, Ne.symm hx]
    · rw [if_neg h1]
      by_cases h2 : a = b
      · subst h2
        by_cases hx : x = a
        · simp [Memory.get?, hx]
        · simp [Memory.get?, hx, Ne.symm hx]
      · rw [if_neg h2, Memory.get?, ih, Memory.get?]
        by_cases hx : x = a
        · subst hx; simp [Ne.symm h2]
        · simp [hx]

@[simp] theorem Memory.get?_set_self (m : Memory) (a : Nat) (v : Byte) : (m.set a v).get? a = some v := by
  simp [Memory.get?_set]

theorem Memory.get?_set_of_ne (m : Memory) (a : Nat) (v : Byte) {x : Nat} (h : x ≠ a) :
    (m.set a v).get? x = m.get? x := by
  simp [Memory.get?_set, h]

/-- A write leaves every byte before its first address alone. -/
theorem Memory.get?_writeBytes_of_lt (bs : List Byte) (m : Memory) (a : Nat) {x : Nat} (h : x < a) :
    (m.writeBytes a bs).get? x = m.get? x := by
  induction bs generalizing m a with
  | nil => rfl
  | cons b bs ih => rw [Memory.writeBytes, ih _ _ (by omega), Memory.get?_set_of_ne _ _ _ (by omega)]

/-- Everything a write does: byte j of the written list stands at a + j, and every other address is as before. -/
theorem Memory.get?_writeBytes (bs : List Byte) (m : Memory) (a x : Nat) :
    (m.writeBytes a bs).get? x = if a ≤ x ∧ x < a + bs.length then bs[x - a]? else m.get? x := by
  induction bs generalizing m a with
  | nil => simp [Memory.writeBytes]
  | cons b bs ih =>
    rw [Memory.writeBytes]
    by_cases h : x < a + 1
    · rw [Memory.get?_writeBytes_of_lt _ _ _ h, Memory.get?_set]
      by_cases hx : x = a
      · simp [hx]
      · rw [if_neg hx, if_neg (by omega)]
    · rw [ih]
      have hs : x - a = (x - (a + 1)) + 1 := by omega
      by_cases h2 : x < a + 1 + bs.length
      · rw [if_pos ⟨by omega, h2⟩, if_pos ⟨by omega, by simp; omega⟩, hs, List.getElem?_cons_succ]
      · rw [if_neg (by omega), if_neg (by simp; omega), Memory.get?_set_of_ne _ _ _ (by omega)]

theorem Memory.holds_writeBytes (m : Memory) (a : Nat) (bs : List Byte) : (m.writeBytes a bs).Holds a bs := by
  intro j hj
  rw [Memory.get?_writeBytes, if_pos ⟨by omega, by omega⟩, Nat.add_sub_cancel_left]

theorem Memory.sameOutside_writeBytes (m : Memory) (a : Nat) (bs : List Byte) :
    m.SameOutside (m.writeBytes a bs) a bs.length := by
  intro x hx
  rw [Memory.get?_writeBytes, if_neg (by omega)]

/-- Everything `forget` does (R231). -/
theorem Memory.get?_forget (m : Memory) (a n x : Nat) :
    (m.forget a n).get? x = if a ≤ x ∧ x < a + n then none else m.get? x := by
  induction m with
  | nil => simp [Memory.forget, Memory.get?]
  | cons c m ih =>
    obtain ⟨b, w⟩ := c
    by_cases hb : a ≤ b ∧ b < a + n
    · have : Memory.forget ((b, w) :: m) a n = Memory.forget m a n := by
        simp only [Memory.forget]
        rw [List.filter_cons_of_neg]
        simpa using hb
      rw [this, ih]
      by_cases hx : a ≤ x ∧ x < a + n
      · rw [if_pos hx, if_pos hx]
      · rw [if_neg hx, if_neg hx, Memory.get?, if_neg (by rintro rfl; exact hx hb)]
    · have : Memory.forget ((b, w) :: m) a n = (b, w) :: Memory.forget m a n := by
        simp only [Memory.forget]
        rw [List.filter_cons_of_pos]
        simp
        omega
      rw [this, Memory.get?, ih, Memory.get?]
      by_cases hbx : b = x
      · subst hbx; simp [hb]
      · simp [hbx]

/-- An entry of a written memory is the written one or an old one. -/
theorem Memory.mem_set {m : Memory} {a : Nat} {v : Byte} {c : Host.Cell} (h : c ∈ m.set a v) :
    c = (a, v) ∨ c ∈ m := by
  induction m with
  | nil => exact .inl (by simpa [Memory.set] using h)
  | cons d m ih =>
    obtain ⟨b, w⟩ := d
    simp only [Memory.set] at h
    split_ifs at h with h1 h2
    · simpa using h
    · rcases List.mem_cons.mp h with h | h
      · exact .inl h
      · exact .inr (List.mem_cons_of_mem _ h)
    · rcases List.mem_cons.mp h with h | h
      · exact .inr (by simp [h])
      · exact (ih h).imp id (List.mem_cons_of_mem _)

theorem Memory.wf_set {size : Nat} {m : Memory} (hm : m.wf size) {a : Nat} (ha : a < size) (v : Byte) :
    (m.set a v).wf size := by
  obtain ⟨hs, hb⟩ := hm
  refine ⟨?_, fun c hc => ?_⟩
  · induction m with
    | nil => simp [Memory.set]
    | cons d m ih =>
      obtain ⟨b, w⟩ := d
      obtain ⟨hd, hs⟩ := List.pairwise_cons.mp hs
      simp only [Memory.set]
      split_ifs with h1 h2
      · refine List.pairwise_cons.mpr ⟨fun c hc => ?_, List.pairwise_cons.mpr ⟨hd, hs⟩⟩
        rcases List.mem_cons.mp hc with rfl | hc
        · exact h1
        · exact Nat.lt_trans h1 (hd c hc)
      · rw [h2]
        exact List.pairwise_cons.mpr ⟨hd, hs⟩
      · refine List.pairwise_cons.mpr ⟨fun c hc => ?_, ih hs fun c hc => hb c (List.mem_cons_of_mem _ hc)⟩
        rcases Memory.mem_set hc with rfl | hc
        · show b < a
          omega
        · exact hd c hc
  · rcases Memory.mem_set hc with rfl | hc
    · exact ha
    · exact hb c hc

theorem Memory.wf_writeBytes {size : Nat} (bs : List Byte) {m : Memory} (hm : m.wf size) {a : Nat}
    (ha : bs = [] ∨ a + bs.length ≤ size) : (m.writeBytes a bs).wf size := by
  induction bs generalizing m a with
  | nil => exact hm
  | cons b bs ih =>
    have ha : a + (b :: bs).length ≤ size := ha.resolve_left (by simp)
    simp only [List.length_cons] at ha
    exact ih (Memory.wf_set hm (by omega) b) (.inr (by omega))

theorem Memory.wf_forget {size : Nat} {m : Memory} (hm : m.wf size) (a n : Nat) : (m.forget a n).wf size :=
  ⟨hm.1.filter _, fun c hc => hm.2 c (List.mem_of_mem_filter hc)⟩

theorem Memory.wf_reset (size : Nat) : State.reset.dmem.wf size := ⟨List.Pairwise.nil, by simp [State.reset]⟩

@[simp] theorem Memory.length_readBytes (m : Memory) (n a d : Nat) : (m.readBytes n a d).1.length = n := by
  induction n generalizing a d with
  | zero => rfl
  | succ n ih => simp [Memory.readBytes, ih]

/-- Everything a read of n bytes answers: a written byte as it stands, an unspecified one as a draw. -/
theorem Memory.reads_readBytes (m : Memory) (n a d : Nat) : m.Reads a (m.readBytes n a d).1 := by
  induction n generalizing a d with
  | zero => intro j hj; simp [Memory.readBytes] at hj
  | succ n ih =>
    intro j hj v hv
    cases j with
    | zero =>
      simp only [Nat.add_zero] at hv
      simp [Memory.readBytes, Memory.readByte, hv]
    | succ j =>
      simp only [Memory.length_readBytes] at hj
      have := ih (a + 1) (m.readByte a d).2 j (by simp; omega) v (by rw [← hv]; congr 1; omega)
      simpa [Memory.readBytes] using this

/-- A region that is written reads as it stands, whatever the draws. -/
theorem Memory.readBytes_of_holds {m : Memory} {a : Nat} {bs : List Byte} (h : m.Holds a bs) (d : Nat) :
    m.readBytes bs.length a d = (bs, d) := by
  induction bs generalizing a with
  | nil => rfl
  | cons b bs ih =>
    have h0 := h 0 (by simp)
    have ht : m.Holds (a + 1) bs := fun j hj => by
      have := h (j + 1) (by simpa using hj)
      rwa [List.getElem?_cons_succ, ← Nat.add_assoc, Nat.add_right_comm] at this
    simp only [Nat.add_zero, List.getElem?_cons_zero] at h0
    simp [Memory.readBytes, Memory.readByte, h0, ih ht]

/-- A read never takes a draw back. -/
theorem Memory.le_draws_readBytes (m : Memory) (n a d : Nat) : d ≤ (m.readBytes n a d).2 := by
  induction n generalizing a d with
  | zero => exact Nat.le_refl d
  | succ n ih =>
    refine Nat.le_trans ?_ (ih (a + 1) (m.readByte a d).2)
    simp only [Memory.readByte]
    split <;> omega

end Sys2Proof.Machine
end

