-- ==== Sys2Proof/Laws/State.lean ====
section
/-!
SUPPORT. One lemma for each field under each named update of the state, so that no later proof unfolds a record update.
-/

namespace Sys2Proof.Machine

@[simp] theorem State.withStatus_params (s : State) (st : Status) : (s.withStatus st).params = s.params := rfl
@[simp] theorem State.withStatus_rstN (s : State) (st : Status) : (s.withStatus st).rstN = s.rstN := rfl
@[simp] theorem State.withStatus_irqEn (s : State) (st : Status) : (s.withStatus st).irqEn = s.irqEn := rfl
@[simp] theorem State.withStatus_status (s : State) (st : Status) : (s.withStatus st).status = st := rfl
@[simp] theorem State.withStatus_cmd (s : State) (st : Status) : (s.withStatus st).cmd = s.cmd := rfl
@[simp] theorem State.withStatus_srcAddr (s : State) (st : Status) : (s.withStatus st).srcAddr = s.srcAddr := rfl
@[simp] theorem State.withStatus_srcLen (s : State) (st : Status) : (s.withStatus st).srcLen = s.srcLen := rfl
@[simp] theorem State.withStatus_dstAddr (s : State) (st : Status) : (s.withStatus st).dstAddr = s.dstAddr := rfl
@[simp] theorem State.withStatus_dstLen (s : State) (st : Status) : (s.withStatus st).dstLen = s.dstLen := rfl
@[simp] theorem State.withStatus_keyAddr (s : State) (st : Status) : (s.withStatus st).keyAddr = s.keyAddr := rfl
@[simp] theorem State.withStatus_keyLen (s : State) (st : Status) : (s.withStatus st).keyLen = s.keyLen := rfl
@[simp] theorem State.withStatus_blk (s : State) (st : Status) : (s.withStatus st).blk = s.blk := rfl
@[simp] theorem State.withStatus_win (s : State) (st : Status) : (s.withStatus st).win = s.win := rfl
@[simp] theorem State.withStatus_wout (s : State) (st : Status) : (s.withStatus st).wout = s.wout := rfl
@[simp] theorem State.withStatus_kfold (s : State) (st : Status) : (s.withStatus st).kfold = s.kfold := rfl
@[simp] theorem State.withStatus_rk (s : State) (st : Status) : (s.withStatus st).rk = s.rk := rfl
@[simp] theorem State.withStatus_pend (s : State) (st : Status) : (s.withStatus st).pend = s.pend := rfl
@[simp] theorem State.withStatus_irq (s : State) (st : Status) : (s.withStatus st).irq = irqLevel s.irqEn st := rfl
@[simp] theorem State.withStatus_dmem (s : State) (st : Status) : (s.withStatus st).dmem = s.dmem := rfl
@[simp] theorem State.withStatus_draws (s : State) (st : Status) : (s.withStatus st).draws = s.draws := rfl
@[simp] theorem State.withStatus_events (s : State) (st : Status) : (s.withStatus st).events = s.events := rfl
@[simp] theorem State.withStatus_response (s : State) (st : Status) : (s.withStatus st).response = s.response := rfl

@[simp] theorem State.withIrqEn_params (s : State) (en : Bool) : (s.withIrqEn en).params = s.params := rfl
@[simp] theorem State.withIrqEn_rstN (s : State) (en : Bool) : (s.withIrqEn en).rstN = s.rstN := rfl
@[simp] theorem State.withIrqEn_irqEn (s : State) (en : Bool) : (s.withIrqEn en).irqEn = en := rfl
@[simp] theorem State.withIrqEn_status (s : State) (en : Bool) : (s.withIrqEn en).status = s.status := rfl
@[simp] theorem State.withIrqEn_cmd (s : State) (en : Bool) : (s.withIrqEn en).cmd = s.cmd := rfl
@[simp] theorem State.withIrqEn_srcAddr (s : State) (en : Bool) : (s.withIrqEn en).srcAddr = s.srcAddr := rfl
@[simp] theorem State.withIrqEn_srcLen (s : State) (en : Bool) : (s.withIrqEn en).srcLen = s.srcLen := rfl
@[simp] theorem State.withIrqEn_dstAddr (s : State) (en : Bool) : (s.withIrqEn en).dstAddr = s.dstAddr := rfl
@[simp] theorem State.withIrqEn_dstLen (s : State) (en : Bool) : (s.withIrqEn en).dstLen = s.dstLen := rfl
@[simp] theorem State.withIrqEn_keyAddr (s : State) (en : Bool) : (s.withIrqEn en).keyAddr = s.keyAddr := rfl
@[simp] theorem State.withIrqEn_keyLen (s : State) (en : Bool) : (s.withIrqEn en).keyLen = s.keyLen := rfl
@[simp] theorem State.withIrqEn_blk (s : State) (en : Bool) : (s.withIrqEn en).blk = s.blk := rfl
@[simp] theorem State.withIrqEn_win (s : State) (en : Bool) : (s.withIrqEn en).win = s.win := rfl
@[simp] theorem State.withIrqEn_wout (s : State) (en : Bool) : (s.withIrqEn en).wout = s.wout := rfl
@[simp] theorem State.withIrqEn_kfold (s : State) (en : Bool) : (s.withIrqEn en).kfold = s.kfold := rfl
@[simp] theorem State.withIrqEn_rk (s : State) (en : Bool) : (s.withIrqEn en).rk = s.rk := rfl
@[simp] theorem State.withIrqEn_pend (s : State) (en : Bool) : (s.withIrqEn en).pend = s.pend := rfl
@[simp] theorem State.withIrqEn_irq (s : State) (en : Bool) : (s.withIrqEn en).irq = irqLevel en s.status := rfl
@[simp] theorem State.withIrqEn_dmem (s : State) (en : Bool) : (s.withIrqEn en).dmem = s.dmem := rfl
@[simp] theorem State.withIrqEn_draws (s : State) (en : Bool) : (s.withIrqEn en).draws = s.draws := rfl
@[simp] theorem State.withIrqEn_events (s : State) (en : Bool) : (s.withIrqEn en).events = s.events := rfl
@[simp] theorem State.withIrqEn_response (s : State) (en : Bool) : (s.withIrqEn en).response = s.response := rfl

@[simp] theorem State.overrun_params (s : State) : (s.overrun).params = s.params := rfl
@[simp] theorem State.overrun_rstN (s : State) : (s.overrun).rstN = s.rstN := rfl
@[simp] theorem State.overrun_irqEn (s : State) : (s.overrun).irqEn = s.irqEn := rfl
@[simp] theorem State.overrun_status (s : State) : (s.overrun).status = { s.status with ovf := true } := rfl
@[simp] theorem State.overrun_cmd (s : State) : (s.overrun).cmd = s.cmd := rfl
@[simp] theorem State.overrun_srcAddr (s : State) : (s.overrun).srcAddr = s.srcAddr := rfl
@[simp] theorem State.overrun_srcLen (s : State) : (s.overrun).srcLen = s.srcLen := rfl
@[simp] theorem State.overrun_dstAddr (s : State) : (s.overrun).dstAddr = s.dstAddr := rfl
@[simp] theorem State.overrun_dstLen (s : State) : (s.overrun).dstLen = s.dstLen := rfl
@[simp] theorem State.overrun_keyAddr (s : State) : (s.overrun).keyAddr = s.keyAddr := rfl
@[simp] theorem State.overrun_keyLen (s : State) : (s.overrun).keyLen = s.keyLen := rfl
@[simp] theorem State.overrun_blk (s : State) : (s.overrun).blk = s.blk := rfl
@[simp] theorem State.overrun_win (s : State) : (s.overrun).win = s.win := rfl
@[simp] theorem State.overrun_wout (s : State) : (s.overrun).wout = s.wout := rfl
@[simp] theorem State.overrun_kfold (s : State) : (s.overrun).kfold = s.kfold := rfl
@[simp] theorem State.overrun_rk (s : State) : (s.overrun).rk = s.rk := rfl
@[simp] theorem State.overrun_pend (s : State) : (s.overrun).pend = s.pend := rfl
@[simp] theorem State.overrun_irq (s : State) : (s.overrun).irq = irqLevel s.irqEn s.status := rfl
@[simp] theorem State.overrun_dmem (s : State) : (s.overrun).dmem = s.dmem := rfl
@[simp] theorem State.overrun_draws (s : State) : (s.overrun).draws = s.draws := rfl
@[simp] theorem State.overrun_events (s : State) : (s.overrun).events = s.events := rfl
@[simp] theorem State.overrun_response (s : State) : (s.overrun).response = s.response := rfl

@[simp] theorem State.memWrite_params (s : State) (a : Nat) (bs : List Byte) : (s.memWrite a bs).params = s.params := rfl
@[simp] theorem State.memWrite_rstN (s : State) (a : Nat) (bs : List Byte) : (s.memWrite a bs).rstN = s.rstN := rfl
@[simp] theorem State.memWrite_irqEn (s : State) (a : Nat) (bs : List Byte) : (s.memWrite a bs).irqEn = s.irqEn := rfl
@[simp] theorem State.memWrite_status (s : State) (a : Nat) (bs : List Byte) : (s.memWrite a bs).status = s.status := rfl
@[simp] theorem State.memWrite_cmd (s : State) (a : Nat) (bs : List Byte) : (s.memWrite a bs).cmd = s.cmd := rfl
@[simp] theorem State.memWrite_srcAddr (s : State) (a : Nat) (bs : List Byte) : (s.memWrite a bs).srcAddr = s.srcAddr := rfl
@[simp] theorem State.memWrite_srcLen (s : State) (a : Nat) (bs : List Byte) : (s.memWrite a bs).srcLen = s.srcLen := rfl
@[simp] theorem State.memWrite_dstAddr (s : State) (a : Nat) (bs : List Byte) : (s.memWrite a bs).dstAddr = s.dstAddr := rfl
@[simp] theorem State.memWrite_dstLen (s : State) (a : Nat) (bs : List Byte) : (s.memWrite a bs).dstLen = s.dstLen := rfl
@[simp] theorem State.memWrite_keyAddr (s : State) (a : Nat) (bs : List Byte) : (s.memWrite a bs).keyAddr = s.keyAddr := rfl
@[simp] theorem State.memWrite_keyLen (s : State) (a : Nat) (bs : List Byte) : (s.memWrite a bs).keyLen = s.keyLen := rfl
@[simp] theorem State.memWrite_blk (s : State) (a : Nat) (bs : List Byte) : (s.memWrite a bs).blk = s.blk := rfl
@[simp] theorem State.memWrite_win (s : State) (a : Nat) (bs : List Byte) : (s.memWrite a bs).win = s.win := rfl
@[simp] theorem State.memWrite_wout (s : State) (a : Nat) (bs : List Byte) : (s.memWrite a bs).wout = s.wout := rfl
@[simp] theorem State.memWrite_kfold (s : State) (a : Nat) (bs : List Byte) : (s.memWrite a bs).kfold = s.kfold := rfl
@[simp] theorem State.memWrite_rk (s : State) (a : Nat) (bs : List Byte) : (s.memWrite a bs).rk = s.rk := rfl
@[simp] theorem State.memWrite_pend (s : State) (a : Nat) (bs : List Byte) : (s.memWrite a bs).pend = s.pend := rfl
@[simp] theorem State.memWrite_irq (s : State) (a : Nat) (bs : List Byte) : (s.memWrite a bs).irq = s.irq := rfl
@[simp] theorem State.memWrite_dmem (s : State) (a : Nat) (bs : List Byte) : (s.memWrite a bs).dmem = s.dmem.writeBytes a bs := rfl
@[simp] theorem State.memWrite_draws (s : State) (a : Nat) (bs : List Byte) : (s.memWrite a bs).draws = s.draws := rfl
@[simp] theorem State.memWrite_events (s : State) (a : Nat) (bs : List Byte) : (s.memWrite a bs).events = s.events := rfl
@[simp] theorem State.memWrite_response (s : State) (a : Nat) (bs : List Byte) : (s.memWrite a bs).response = s.response := rfl

@[simp] theorem State.withBlk_params (s : State) (b : Block) : (s.withBlk b).params = s.params := rfl
@[simp] theorem State.withBlk_rstN (s : State) (b : Block) : (s.withBlk b).rstN = s.rstN := rfl
@[simp] theorem State.withBlk_irqEn (s : State) (b : Block) : (s.withBlk b).irqEn = s.irqEn := rfl
@[simp] theorem State.withBlk_status (s : State) (b : Block) : (s.withBlk b).status = s.status := rfl
@[simp] theorem State.withBlk_cmd (s : State) (b : Block) : (s.withBlk b).cmd = s.cmd := rfl
@[simp] theorem State.withBlk_srcAddr (s : State) (b : Block) : (s.withBlk b).srcAddr = s.srcAddr := rfl
@[simp] theorem State.withBlk_srcLen (s : State) (b : Block) : (s.withBlk b).srcLen = s.srcLen := rfl
@[simp] theorem State.withBlk_dstAddr (s : State) (b : Block) : (s.withBlk b).dstAddr = s.dstAddr := rfl
@[simp] theorem State.withBlk_dstLen (s : State) (b : Block) : (s.withBlk b).dstLen = s.dstLen := rfl
@[simp] theorem State.withBlk_keyAddr (s : State) (b : Block) : (s.withBlk b).keyAddr = s.keyAddr := rfl
@[simp] theorem State.withBlk_keyLen (s : State) (b : Block) : (s.withBlk b).keyLen = s.keyLen := rfl
@[simp] theorem State.withBlk_blk (s : State) (b : Block) : (s.withBlk b).blk = b := rfl
@[simp] theorem State.withBlk_win (s : State) (b : Block) : (s.withBlk b).win = s.win := rfl
@[simp] theorem State.withBlk_wout (s : State) (b : Block) : (s.withBlk b).wout = s.wout := rfl
@[simp] theorem State.withBlk_kfold (s : State) (b : Block) : (s.withBlk b).kfold = s.kfold := rfl
@[simp] theorem State.withBlk_rk (s : State) (b : Block) : (s.withBlk b).rk = s.rk := rfl
@[simp] theorem State.withBlk_pend (s : State) (b : Block) : (s.withBlk b).pend = s.pend := rfl
@[simp] theorem State.withBlk_irq (s : State) (b : Block) : (s.withBlk b).irq = s.irq := rfl
@[simp] theorem State.withBlk_dmem (s : State) (b : Block) : (s.withBlk b).dmem = s.dmem := rfl
@[simp] theorem State.withBlk_draws (s : State) (b : Block) : (s.withBlk b).draws = s.draws := rfl
@[simp] theorem State.withBlk_events (s : State) (b : Block) : (s.withBlk b).events = s.events := rfl
@[simp] theorem State.withBlk_response (s : State) (b : Block) : (s.withBlk b).response = s.response := rfl

@[simp] theorem State.withWout_params (s : State) (w : Word) : (s.withWout w).params = s.params := rfl
@[simp] theorem State.withWout_rstN (s : State) (w : Word) : (s.withWout w).rstN = s.rstN := rfl
@[simp] theorem State.withWout_irqEn (s : State) (w : Word) : (s.withWout w).irqEn = s.irqEn := rfl
@[simp] theorem State.withWout_status (s : State) (w : Word) : (s.withWout w).status = s.status := rfl
@[simp] theorem State.withWout_cmd (s : State) (w : Word) : (s.withWout w).cmd = s.cmd := rfl
@[simp] theorem State.withWout_srcAddr (s : State) (w : Word) : (s.withWout w).srcAddr = s.srcAddr := rfl
@[simp] theorem State.withWout_srcLen (s : State) (w : Word) : (s.withWout w).srcLen = s.srcLen := rfl
@[simp] theorem State.withWout_dstAddr (s : State) (w : Word) : (s.withWout w).dstAddr = s.dstAddr := rfl
@[simp] theorem State.withWout_dstLen (s : State) (w : Word) : (s.withWout w).dstLen = s.dstLen := rfl
@[simp] theorem State.withWout_keyAddr (s : State) (w : Word) : (s.withWout w).keyAddr = s.keyAddr := rfl
@[simp] theorem State.withWout_keyLen (s : State) (w : Word) : (s.withWout w).keyLen = s.keyLen := rfl
@[simp] theorem State.withWout_blk (s : State) (w : Word) : (s.withWout w).blk = s.blk := rfl
@[simp] theorem State.withWout_win (s : State) (w : Word) : (s.withWout w).win = s.win := rfl
@[simp] theorem State.withWout_wout (s : State) (w : Word) : (s.withWout w).wout = w := rfl
@[simp] theorem State.withWout_kfold (s : State) (w : Word) : (s.withWout w).kfold = s.kfold := rfl
@[simp] theorem State.withWout_rk (s : State) (w : Word) : (s.withWout w).rk = s.rk := rfl
@[simp] theorem State.withWout_pend (s : State) (w : Word) : (s.withWout w).pend = s.pend := rfl
@[simp] theorem State.withWout_irq (s : State) (w : Word) : (s.withWout w).irq = s.irq := rfl
@[simp] theorem State.withWout_dmem (s : State) (w : Word) : (s.withWout w).dmem = s.dmem := rfl
@[simp] theorem State.withWout_draws (s : State) (w : Word) : (s.withWout w).draws = s.draws := rfl
@[simp] theorem State.withWout_events (s : State) (w : Word) : (s.withWout w).events = s.events := rfl
@[simp] theorem State.withWout_response (s : State) (w : Word) : (s.withWout w).response = s.response := rfl

@[simp] theorem State.withDstLen_params (s : State) (n : Nat) : (s.withDstLen n).params = s.params := rfl
@[simp] theorem State.withDstLen_rstN (s : State) (n : Nat) : (s.withDstLen n).rstN = s.rstN := rfl
@[simp] theorem State.withDstLen_irqEn (s : State) (n : Nat) : (s.withDstLen n).irqEn = s.irqEn := rfl
@[simp] theorem State.withDstLen_status (s : State) (n : Nat) : (s.withDstLen n).status = s.status := rfl
@[simp] theorem State.withDstLen_cmd (s : State) (n : Nat) : (s.withDstLen n).cmd = s.cmd := rfl
@[simp] theorem State.withDstLen_srcAddr (s : State) (n : Nat) : (s.withDstLen n).srcAddr = s.srcAddr := rfl
@[simp] theorem State.withDstLen_srcLen (s : State) (n : Nat) : (s.withDstLen n).srcLen = s.srcLen := rfl
@[simp] theorem State.withDstLen_dstAddr (s : State) (n : Nat) : (s.withDstLen n).dstAddr = s.dstAddr := rfl
@[simp] theorem State.withDstLen_dstLen (s : State) (n : Nat) : (s.withDstLen n).dstLen = BitVec.ofNat 32 n := rfl
@[simp] theorem State.withDstLen_keyAddr (s : State) (n : Nat) : (s.withDstLen n).keyAddr = s.keyAddr := rfl
@[simp] theorem State.withDstLen_keyLen (s : State) (n : Nat) : (s.withDstLen n).keyLen = s.keyLen := rfl
@[simp] theorem State.withDstLen_blk (s : State) (n : Nat) : (s.withDstLen n).blk = s.blk := rfl
@[simp] theorem State.withDstLen_win (s : State) (n : Nat) : (s.withDstLen n).win = s.win := rfl
@[simp] theorem State.withDstLen_wout (s : State) (n : Nat) : (s.withDstLen n).wout = s.wout := rfl
@[simp] theorem State.withDstLen_kfold (s : State) (n : Nat) : (s.withDstLen n).kfold = s.kfold := rfl
@[simp] theorem State.withDstLen_rk (s : State) (n : Nat) : (s.withDstLen n).rk = s.rk := rfl
@[simp] theorem State.withDstLen_pend (s : State) (n : Nat) : (s.withDstLen n).pend = s.pend := rfl
@[simp] theorem State.withDstLen_irq (s : State) (n : Nat) : (s.withDstLen n).irq = s.irq := rfl
@[simp] theorem State.withDstLen_dmem (s : State) (n : Nat) : (s.withDstLen n).dmem = s.dmem := rfl
@[simp] theorem State.withDstLen_draws (s : State) (n : Nat) : (s.withDstLen n).draws = s.draws := rfl
@[simp] theorem State.withDstLen_events (s : State) (n : Nat) : (s.withDstLen n).events = s.events := rfl
@[simp] theorem State.withDstLen_response (s : State) (n : Nat) : (s.withDstLen n).response = s.response := rfl

@[simp] theorem State.loadKey_params (s : State) (fold : DWord) (k : RoundKeys) : (s.loadKey fold k).params = s.params := rfl
@[simp] theorem State.loadKey_rstN (s : State) (fold : DWord) (k : RoundKeys) : (s.loadKey fold k).rstN = s.rstN := rfl
@[simp] theorem State.loadKey_irqEn (s : State) (fold : DWord) (k : RoundKeys) : (s.loadKey fold k).irqEn = s.irqEn := rfl
@[simp] theorem State.loadKey_status (s : State) (fold : DWord) (k : RoundKeys) : (s.loadKey fold k).status = { s.status with rkValid := true } := rfl
@[simp] theorem State.loadKey_cmd (s : State) (fold : DWord) (k : RoundKeys) : (s.loadKey fold k).cmd = s.cmd := rfl
@[simp] theorem State.loadKey_srcAddr (s : State) (fold : DWord) (k : RoundKeys) : (s.loadKey fold k).srcAddr = s.srcAddr := rfl
@[simp] theorem State.loadKey_srcLen (s : State) (fold : DWord) (k : RoundKeys) : (s.loadKey fold k).srcLen = s.srcLen := rfl
@[simp] theorem State.loadKey_dstAddr (s : State) (fold : DWord) (k : RoundKeys) : (s.loadKey fold k).dstAddr = s.dstAddr := rfl
@[simp] theorem State.loadKey_dstLen (s : State) (fold : DWord) (k : RoundKeys) : (s.loadKey fold k).dstLen = s.dstLen := rfl
@[simp] theorem State.loadKey_keyAddr (s : State) (fold : DWord) (k : RoundKeys) : (s.loadKey fold k).keyAddr = s.keyAddr := rfl
@[simp] theorem State.loadKey_keyLen (s : State) (fold : DWord) (k : RoundKeys) : (s.loadKey fold k).keyLen = s.keyLen := rfl
@[simp] theorem State.loadKey_blk (s : State) (fold : DWord) (k : RoundKeys) : (s.loadKey fold k).blk = s.blk := rfl
@[simp] theorem State.loadKey_win (s : State) (fold : DWord) (k : RoundKeys) : (s.loadKey fold k).win = s.win := rfl
@[simp] theorem State.loadKey_wout (s : State) (fold : DWord) (k : RoundKeys) : (s.loadKey fold k).wout = s.wout := rfl
@[simp] theorem State.loadKey_kfold (s : State) (fold : DWord) (k : RoundKeys) : (s.loadKey fold k).kfold = fold := rfl
@[simp] theorem State.loadKey_rk (s : State) (fold : DWord) (k : RoundKeys) : (s.loadKey fold k).rk = k := rfl
@[simp] theorem State.loadKey_pend (s : State) (fold : DWord) (k : RoundKeys) : (s.loadKey fold k).pend = s.pend := rfl
@[simp] theorem State.loadKey_irq (s : State) (fold : DWord) (k : RoundKeys) : (s.loadKey fold k).irq = irqLevel s.irqEn s.status := rfl
@[simp] theorem State.loadKey_dmem (s : State) (fold : DWord) (k : RoundKeys) : (s.loadKey fold k).dmem = s.dmem := rfl
@[simp] theorem State.loadKey_draws (s : State) (fold : DWord) (k : RoundKeys) : (s.loadKey fold k).draws = s.draws := rfl
@[simp] theorem State.loadKey_events (s : State) (fold : DWord) (k : RoundKeys) : (s.loadKey fold k).events = s.events := rfl
@[simp] theorem State.loadKey_response (s : State) (fold : DWord) (k : RoundKeys) : (s.loadKey fold k).response = s.response := rfl

@[simp] theorem State.clearKey_params (s : State) : (s.clearKey).params = s.params := rfl
@[simp] theorem State.clearKey_rstN (s : State) : (s.clearKey).rstN = s.rstN := rfl
@[simp] theorem State.clearKey_irqEn (s : State) : (s.clearKey).irqEn = s.irqEn := rfl
@[simp] theorem State.clearKey_status (s : State) : (s.clearKey).status = { s.status with rkValid := false } := rfl
@[simp] theorem State.clearKey_cmd (s : State) : (s.clearKey).cmd = s.cmd := rfl
@[simp] theorem State.clearKey_srcAddr (s : State) : (s.clearKey).srcAddr = s.srcAddr := rfl
@[simp] theorem State.clearKey_srcLen (s : State) : (s.clearKey).srcLen = s.srcLen := rfl
@[simp] theorem State.clearKey_dstAddr (s : State) : (s.clearKey).dstAddr = s.dstAddr := rfl
@[simp] theorem State.clearKey_dstLen (s : State) : (s.clearKey).dstLen = s.dstLen := rfl
@[simp] theorem State.clearKey_keyAddr (s : State) : (s.clearKey).keyAddr = s.keyAddr := rfl
@[simp] theorem State.clearKey_keyLen (s : State) : (s.clearKey).keyLen = s.keyLen := rfl
@[simp] theorem State.clearKey_blk (s : State) : (s.clearKey).blk = s.blk := rfl
@[simp] theorem State.clearKey_win (s : State) : (s.clearKey).win = s.win := rfl
@[simp] theorem State.clearKey_wout (s : State) : (s.clearKey).wout = s.wout := rfl
@[simp] theorem State.clearKey_kfold (s : State) : (s.clearKey).kfold = 0 := rfl
@[simp] theorem State.clearKey_rk (s : State) : (s.clearKey).rk = RoundKeys.zero := rfl
@[simp] theorem State.clearKey_pend (s : State) : (s.clearKey).pend = s.pend := rfl
@[simp] theorem State.clearKey_irq (s : State) : (s.clearKey).irq = irqLevel s.irqEn s.status := rfl
@[simp] theorem State.clearKey_dmem (s : State) : (s.clearKey).dmem = s.dmem := rfl
@[simp] theorem State.clearKey_draws (s : State) : (s.clearKey).draws = s.draws := rfl
@[simp] theorem State.clearKey_events (s : State) : (s.clearKey).events = s.events := rfl
@[simp] theorem State.clearKey_response (s : State) : (s.clearKey).response = s.response := rfl

@[simp] theorem State.issue_params (s : State) (w : Word) : (s.issue w).params = s.params := rfl
@[simp] theorem State.issue_rstN (s : State) (w : Word) : (s.issue w).rstN = s.rstN := rfl
@[simp] theorem State.issue_irqEn (s : State) (w : Word) : (s.issue w).irqEn = s.irqEn := rfl
@[simp] theorem State.issue_status (s : State) (w : Word) : (s.issue w).status = s.status.onIssue := rfl
@[simp] theorem State.issue_cmd (s : State) (w : Word) : (s.issue w).cmd = w := rfl
@[simp] theorem State.issue_srcAddr (s : State) (w : Word) : (s.issue w).srcAddr = s.srcAddr := rfl
@[simp] theorem State.issue_srcLen (s : State) (w : Word) : (s.issue w).srcLen = s.srcLen := rfl
@[simp] theorem State.issue_dstAddr (s : State) (w : Word) : (s.issue w).dstAddr = s.dstAddr := rfl
@[simp] theorem State.issue_dstLen (s : State) (w : Word) : (s.issue w).dstLen = s.dstLen := rfl
@[simp] theorem State.issue_keyAddr (s : State) (w : Word) : (s.issue w).keyAddr = s.keyAddr := rfl
@[simp] theorem State.issue_keyLen (s : State) (w : Word) : (s.issue w).keyLen = s.keyLen := rfl
@[simp] theorem State.issue_blk (s : State) (w : Word) : (s.issue w).blk = s.blk := rfl
@[simp] theorem State.issue_win (s : State) (w : Word) : (s.issue w).win = s.win := rfl
@[simp] theorem State.issue_wout (s : State) (w : Word) : (s.issue w).wout = s.wout := rfl
@[simp] theorem State.issue_kfold (s : State) (w : Word) : (s.issue w).kfold = s.kfold := rfl
@[simp] theorem State.issue_rk (s : State) (w : Word) : (s.issue w).rk = s.rk := rfl
@[simp] theorem State.issue_pend (s : State) (w : Word) : (s.issue w).pend = some { word := w, inputs := s.sample } := rfl
@[simp] theorem State.issue_irq (s : State) (w : Word) : (s.issue w).irq = irqLevel s.irqEn s.status.onIssue := rfl
@[simp] theorem State.issue_dmem (s : State) (w : Word) : (s.issue w).dmem = s.dmem := rfl
@[simp] theorem State.issue_draws (s : State) (w : Word) : (s.issue w).draws = s.draws := rfl
@[simp] theorem State.issue_events (s : State) (w : Word) : (s.issue w).events = s.events := rfl
@[simp] theorem State.issue_response (s : State) (w : Word) : (s.issue w).response = s.response := rfl

@[simp] theorem State.complete_params (s : State) : (s.complete).params = s.params := rfl
@[simp] theorem State.complete_rstN (s : State) : (s.complete).rstN = s.rstN := rfl
@[simp] theorem State.complete_irqEn (s : State) : (s.complete).irqEn = s.irqEn := rfl
@[simp] theorem State.complete_status (s : State) : (s.complete).status = s.status.onCompletion := rfl
@[simp] theorem State.complete_cmd (s : State) : (s.complete).cmd = s.cmd := rfl
@[simp] theorem State.complete_srcAddr (s : State) : (s.complete).srcAddr = s.srcAddr := rfl
@[simp] theorem State.complete_srcLen (s : State) : (s.complete).srcLen = s.srcLen := rfl
@[simp] theorem State.complete_dstAddr (s : State) : (s.complete).dstAddr = s.dstAddr := rfl
@[simp] theorem State.complete_dstLen (s : State) : (s.complete).dstLen = s.dstLen := rfl
@[simp] theorem State.complete_keyAddr (s : State) : (s.complete).keyAddr = s.keyAddr := rfl
@[simp] theorem State.complete_keyLen (s : State) : (s.complete).keyLen = s.keyLen := rfl
@[simp] theorem State.complete_blk (s : State) : (s.complete).blk = s.blk := rfl
@[simp] theorem State.complete_win (s : State) : (s.complete).win = s.win := rfl
@[simp] theorem State.complete_wout (s : State) : (s.complete).wout = s.wout := rfl
@[simp] theorem State.complete_kfold (s : State) : (s.complete).kfold = s.kfold := rfl
@[simp] theorem State.complete_rk (s : State) : (s.complete).rk = s.rk := rfl
@[simp] theorem State.complete_pend (s : State) : (s.complete).pend = none := rfl
@[simp] theorem State.complete_irq (s : State) : (s.complete).irq = irqLevel s.irqEn s.status.onCompletion := rfl
@[simp] theorem State.complete_dmem (s : State) : (s.complete).dmem = s.dmem := rfl
@[simp] theorem State.complete_draws (s : State) : (s.complete).draws = s.draws := rfl
@[simp] theorem State.complete_events (s : State) : (s.complete).events = s.events := rfl
@[simp] theorem State.complete_response (s : State) : (s.complete).response = s.response := rfl

@[simp] theorem State.fail_params (s : State) (code : ErrCode) : (s.fail code).params = s.params := rfl
@[simp] theorem State.fail_rstN (s : State) (code : ErrCode) : (s.fail code).rstN = s.rstN := rfl
@[simp] theorem State.fail_irqEn (s : State) (code : ErrCode) : (s.fail code).irqEn = s.irqEn := rfl
@[simp] theorem State.fail_status (s : State) (code : ErrCode) : (s.fail code).status = (s.status.onFailure code).onCompletion := rfl
@[simp] theorem State.fail_cmd (s : State) (code : ErrCode) : (s.fail code).cmd = s.cmd := rfl
@[simp] theorem State.fail_srcAddr (s : State) (code : ErrCode) : (s.fail code).srcAddr = s.srcAddr := rfl
@[simp] theorem State.fail_srcLen (s : State) (code : ErrCode) : (s.fail code).srcLen = s.srcLen := rfl
@[simp] theorem State.fail_dstAddr (s : State) (code : ErrCode) : (s.fail code).dstAddr = s.dstAddr := rfl
@[simp] theorem State.fail_dstLen (s : State) (code : ErrCode) : (s.fail code).dstLen = s.dstLen := rfl
@[simp] theorem State.fail_keyAddr (s : State) (code : ErrCode) : (s.fail code).keyAddr = s.keyAddr := rfl
@[simp] theorem State.fail_keyLen (s : State) (code : ErrCode) : (s.fail code).keyLen = s.keyLen := rfl
@[simp] theorem State.fail_blk (s : State) (code : ErrCode) : (s.fail code).blk = s.blk := rfl
@[simp] theorem State.fail_win (s : State) (code : ErrCode) : (s.fail code).win = s.win := rfl
@[simp] theorem State.fail_wout (s : State) (code : ErrCode) : (s.fail code).wout = s.wout := rfl
@[simp] theorem State.fail_kfold (s : State) (code : ErrCode) : (s.fail code).kfold = s.kfold := rfl
@[simp] theorem State.fail_rk (s : State) (code : ErrCode) : (s.fail code).rk = s.rk := rfl
@[simp] theorem State.fail_pend (s : State) (code : ErrCode) : (s.fail code).pend = none := rfl
@[simp] theorem State.fail_irq (s : State) (code : ErrCode) : (s.fail code).irq = irqLevel s.irqEn (s.status.onFailure code).onCompletion := rfl
@[simp] theorem State.fail_dmem (s : State) (code : ErrCode) : (s.fail code).dmem = s.dmem := rfl
@[simp] theorem State.fail_draws (s : State) (code : ErrCode) : (s.fail code).draws = s.draws := rfl
@[simp] theorem State.fail_events (s : State) (code : ErrCode) : (s.fail code).events = s.events := rfl
@[simp] theorem State.fail_response (s : State) (code : ErrCode) : (s.fail code).response = s.response := rfl

@[simp] theorem State.respond_params (s : State) (r : Response) : (s.respond r).params = s.params := rfl
@[simp] theorem State.respond_rstN (s : State) (r : Response) : (s.respond r).rstN = s.rstN := rfl
@[simp] theorem State.respond_irqEn (s : State) (r : Response) : (s.respond r).irqEn = s.irqEn := rfl
@[simp] theorem State.respond_status (s : State) (r : Response) : (s.respond r).status = s.status := rfl
@[simp] theorem State.respond_cmd (s : State) (r : Response) : (s.respond r).cmd = s.cmd := rfl
@[simp] theorem State.respond_srcAddr (s : State) (r : Response) : (s.respond r).srcAddr = s.srcAddr := rfl
@[simp] theorem State.respond_srcLen (s : State) (r : Response) : (s.respond r).srcLen = s.srcLen := rfl
@[simp] theorem State.respond_dstAddr (s : State) (r : Response) : (s.respond r).dstAddr = s.dstAddr := rfl
@[simp] theorem State.respond_dstLen (s : State) (r : Response) : (s.respond r).dstLen = s.dstLen := rfl
@[simp] theorem State.respond_keyAddr (s : State) (r : Response) : (s.respond r).keyAddr = s.keyAddr := rfl
@[simp] theorem State.respond_keyLen (s : State) (r : Response) : (s.respond r).keyLen = s.keyLen := rfl
@[simp] theorem State.respond_blk (s : State) (r : Response) : (s.respond r).blk = s.blk := rfl
@[simp] theorem State.respond_win (s : State) (r : Response) : (s.respond r).win = s.win := rfl
@[simp] theorem State.respond_wout (s : State) (r : Response) : (s.respond r).wout = s.wout := rfl
@[simp] theorem State.respond_kfold (s : State) (r : Response) : (s.respond r).kfold = s.kfold := rfl
@[simp] theorem State.respond_rk (s : State) (r : Response) : (s.respond r).rk = s.rk := rfl
@[simp] theorem State.respond_pend (s : State) (r : Response) : (s.respond r).pend = s.pend := rfl
@[simp] theorem State.respond_irq (s : State) (r : Response) : (s.respond r).irq = s.irq := rfl
@[simp] theorem State.respond_dmem (s : State) (r : Response) : (s.respond r).dmem = s.dmem := rfl
@[simp] theorem State.respond_draws (s : State) (r : Response) : (s.respond r).draws = s.draws := rfl
@[simp] theorem State.respond_events (s : State) (r : Response) : (s.respond r).events = s.events := rfl
@[simp] theorem State.respond_response (s : State) (r : Response) : (s.respond r).response = some r := rfl

@[simp] theorem State.hardReset_params (s : State) (level : Bool) : (s.hardReset level).params = s.params := rfl
@[simp] theorem State.hardReset_rstN (s : State) (level : Bool) : (s.hardReset level).rstN = level := rfl
@[simp] theorem State.hardReset_irqEn (s : State) (level : Bool) : (s.hardReset level).irqEn = State.reset.irqEn := rfl
@[simp] theorem State.hardReset_status (s : State) (level : Bool) : (s.hardReset level).status = State.reset.status := rfl
@[simp] theorem State.hardReset_cmd (s : State) (level : Bool) : (s.hardReset level).cmd = State.reset.cmd := rfl
@[simp] theorem State.hardReset_srcAddr (s : State) (level : Bool) : (s.hardReset level).srcAddr = State.reset.srcAddr := rfl
@[simp] theorem State.hardReset_srcLen (s : State) (level : Bool) : (s.hardReset level).srcLen = State.reset.srcLen := rfl
@[simp] theorem State.hardReset_dstAddr (s : State) (level : Bool) : (s.hardReset level).dstAddr = State.reset.dstAddr := rfl
@[simp] theorem State.hardReset_dstLen (s : State) (level : Bool) : (s.hardReset level).dstLen = State.reset.dstLen := rfl
@[simp] theorem State.hardReset_keyAddr (s : State) (level : Bool) : (s.hardReset level).keyAddr = State.reset.keyAddr := rfl
@[simp] theorem State.hardReset_keyLen (s : State) (level : Bool) : (s.hardReset level).keyLen = State.reset.keyLen := rfl
@[simp] theorem State.hardReset_blk (s : State) (level : Bool) : (s.hardReset level).blk = State.reset.blk := rfl
@[simp] theorem State.hardReset_win (s : State) (level : Bool) : (s.hardReset level).win = State.reset.win := rfl
@[simp] theorem State.hardReset_wout (s : State) (level : Bool) : (s.hardReset level).wout = State.reset.wout := rfl
@[simp] theorem State.hardReset_kfold (s : State) (level : Bool) : (s.hardReset level).kfold = State.reset.kfold := rfl
@[simp] theorem State.hardReset_rk (s : State) (level : Bool) : (s.hardReset level).rk = State.reset.rk := rfl
@[simp] theorem State.hardReset_pend (s : State) (level : Bool) : (s.hardReset level).pend = State.reset.pend := rfl
@[simp] theorem State.hardReset_irq (s : State) (level : Bool) : (s.hardReset level).irq = State.reset.irq := rfl
@[simp] theorem State.hardReset_dmem (s : State) (level : Bool) : (s.hardReset level).dmem = State.reset.dmem := rfl
@[simp] theorem State.hardReset_draws (s : State) (level : Bool) : (s.hardReset level).draws = s.draws := rfl
@[simp] theorem State.hardReset_events (s : State) (level : Bool) : (s.hardReset level).events = s.events := rfl
@[simp] theorem State.hardReset_response (s : State) (level : Bool) : (s.hardReset level).response = State.reset.response := rfl

@[simp] theorem State.softReset_params (s : State) : (s.softReset).params = s.params := rfl
@[simp] theorem State.softReset_rstN (s : State) : (s.softReset).rstN = s.rstN := rfl
@[simp] theorem State.softReset_irqEn (s : State) : (s.softReset).irqEn = State.reset.irqEn := rfl
@[simp] theorem State.softReset_status (s : State) : (s.softReset).status = State.reset.status := rfl
@[simp] theorem State.softReset_cmd (s : State) : (s.softReset).cmd = State.reset.cmd := rfl
@[simp] theorem State.softReset_srcAddr (s : State) : (s.softReset).srcAddr = State.reset.srcAddr := rfl
@[simp] theorem State.softReset_srcLen (s : State) : (s.softReset).srcLen = State.reset.srcLen := rfl
@[simp] theorem State.softReset_dstAddr (s : State) : (s.softReset).dstAddr = State.reset.dstAddr := rfl
@[simp] theorem State.softReset_dstLen (s : State) : (s.softReset).dstLen = State.reset.dstLen := rfl
@[simp] theorem State.softReset_keyAddr (s : State) : (s.softReset).keyAddr = State.reset.keyAddr := rfl
@[simp] theorem State.softReset_keyLen (s : State) : (s.softReset).keyLen = State.reset.keyLen := rfl
@[simp] theorem State.softReset_blk (s : State) : (s.softReset).blk = State.reset.blk := rfl
@[simp] theorem State.softReset_win (s : State) : (s.softReset).win = State.reset.win := rfl
@[simp] theorem State.softReset_wout (s : State) : (s.softReset).wout = State.reset.wout := rfl
@[simp] theorem State.softReset_kfold (s : State) : (s.softReset).kfold = State.reset.kfold := rfl
@[simp] theorem State.softReset_rk (s : State) : (s.softReset).rk = State.reset.rk := rfl
@[simp] theorem State.softReset_pend (s : State) : (s.softReset).pend = State.reset.pend := rfl
@[simp] theorem State.softReset_irq (s : State) : (s.softReset).irq = State.reset.irq := rfl
@[simp] theorem State.softReset_dmem (s : State) : (s.softReset).dmem = s.softResetDmem := rfl
@[simp] theorem State.softReset_draws (s : State) : (s.softReset).draws = s.draws := rfl
@[simp] theorem State.softReset_events (s : State) : (s.softReset).events = s.events := rfl
@[simp] theorem State.softReset_response (s : State) : (s.softReset).response = s.response := rfl

/-- A read of a region leaves every field but the draw counter. -/
theorem State.memRead_snd (s : State) (g : Region) :
    (s.memRead g).2 = { s with draws := (s.dmem.readBytes g.len g.addr s.draws).2 } := rfl

theorem State.memRead_fst (s : State) (g : Region) :
    (s.memRead g).1 = (s.dmem.readBytes g.len g.addr s.draws).1 := rfl

@[simp] theorem State.memRead_params (s : State) (g : Region) : (s.memRead g).2.params = s.params := rfl
@[simp] theorem State.memRead_rstN (s : State) (g : Region) : (s.memRead g).2.rstN = s.rstN := rfl
@[simp] theorem State.memRead_irqEn (s : State) (g : Region) : (s.memRead g).2.irqEn = s.irqEn := rfl
@[simp] theorem State.memRead_status (s : State) (g : Region) : (s.memRead g).2.status = s.status := rfl
@[simp] theorem State.memRead_cmd (s : State) (g : Region) : (s.memRead g).2.cmd = s.cmd := rfl
@[simp] theorem State.memRead_srcAddr (s : State) (g : Region) : (s.memRead g).2.srcAddr = s.srcAddr := rfl
@[simp] theorem State.memRead_srcLen (s : State) (g : Region) : (s.memRead g).2.srcLen = s.srcLen := rfl
@[simp] theorem State.memRead_dstAddr (s : State) (g : Region) : (s.memRead g).2.dstAddr = s.dstAddr := rfl
@[simp] theorem State.memRead_dstLen (s : State) (g : Region) : (s.memRead g).2.dstLen = s.dstLen := rfl
@[simp] theorem State.memRead_keyAddr (s : State) (g : Region) : (s.memRead g).2.keyAddr = s.keyAddr := rfl
@[simp] theorem State.memRead_keyLen (s : State) (g : Region) : (s.memRead g).2.keyLen = s.keyLen := rfl
@[simp] theorem State.memRead_blk (s : State) (g : Region) : (s.memRead g).2.blk = s.blk := rfl
@[simp] theorem State.memRead_win (s : State) (g : Region) : (s.memRead g).2.win = s.win := rfl
@[simp] theorem State.memRead_wout (s : State) (g : Region) : (s.memRead g).2.wout = s.wout := rfl
@[simp] theorem State.memRead_kfold (s : State) (g : Region) : (s.memRead g).2.kfold = s.kfold := rfl
@[simp] theorem State.memRead_rk (s : State) (g : Region) : (s.memRead g).2.rk = s.rk := rfl
@[simp] theorem State.memRead_pend (s : State) (g : Region) : (s.memRead g).2.pend = s.pend := rfl
@[simp] theorem State.memRead_irq (s : State) (g : Region) : (s.memRead g).2.irq = s.irq := rfl
@[simp] theorem State.memRead_dmem (s : State) (g : Region) : (s.memRead g).2.dmem = s.dmem := rfl
@[simp] theorem State.memRead_events (s : State) (g : Region) : (s.memRead g).2.events = s.events := rfl
@[simp] theorem State.memRead_response (s : State) (g : Region) : (s.memRead g).2.response = s.response := rfl

theorem State.operands_of_pend {s : State} {p : Pending} (h : s.pend = some p) : s.operands = p.inputs := by
  simp [State.operands, h]

theorem State.operands_of_idle {s : State} (h : s.pend = none) : s.operands = s.sample := by
  simp [State.operands, h]

@[simp] theorem irqLevel_onCompletion (en : Bool) (st : Status) : irqLevel en st.onCompletion = en := by
  simp [irqLevel, Status.onCompletion]

end Sys2Proof.Machine
end

