-- ==== Sys2Proof/Laws/Ops.lean ====
section
/-!
SUPPORT. One specification lemma for each operation the commands share: completion, failure, the check list, the selected
round key, regions, issue.
-/

namespace Sys2Proof

/-- `DMEM_BYTES` is a multiple of 16 from 16 to 65536 (R8). -/
theorem Params.dmemBytes_legal (p : Params) :
    p.dmemBytes % 16 = 0 ∧ 16 ≤ p.dmemBytes ∧ p.dmemBytes ≤ 65536 := by
  have := p.dmemBlocks.isLt
  simp only [Params.dmemBytes]
  omega

end Sys2Proof

namespace Sys2Proof.Machine

theorem State.complete_eq_succeeded (s : State) : s.complete = s.succeeded := by
  simp [State.complete, State.withStatus, State.succeeded, irqLevel, Status.onCompletion]

theorem State.fail_eq_failed (s : State) (code : ErrCode) : s.fail code = s.failed code := by
  simp [State.fail, State.complete, State.withStatus, State.failed, irqLevel, Status.onCompletion, Status.onFailure]

/-- The check list passes exactly when every check does. -/
theorem firstFailure_eq_none (l : List (Bool × ErrCode)) :
    firstFailure l = none ↔ ∀ c ∈ l, c.1 = true := by
  induction l with
  | nil => simp [firstFailure]
  | cons c l ih => obtain ⟨b, e⟩ := c; cases b <;> simp [firstFailure, ih]

/-- A reported code is that of a check in the list. -/
theorem firstFailure_mem {l : List (Bool × ErrCode)} {code : ErrCode} (h : firstFailure l = some code) :
    (false, code) ∈ l := by
  induction l with
  | nil => simp [firstFailure] at h
  | cons c l ih =>
    obtain ⟨b, e⟩ := c
    cases b with
    | true => exact List.mem_cons_of_mem _ (ih (by simpa [firstFailure] using h))
    | false =>
      have : e = code := by simpa [firstFailure] using h
      simp [this]

/-- Everything a command's template can do (R93, R202): its effects where every check passes, else one failure. -/
theorem State.perform_cases (s : State) (checks : List (Bool × ErrCode)) (effects : Unit → State) :
    ((∀ c ∈ checks, c.1 = true) ∧ s.perform checks effects = .next (effects ())) ∨
      ∃ code, (false, code) ∈ checks ∧ s.perform checks effects = .next (s.failed code) := by
  unfold State.perform
  cases h : firstFailure checks with
  | none => exact .inl ⟨(firstFailure_eq_none _).mp h, rfl⟩
  | some code => exact .inr ⟨code, firstFailure_mem h, by simp [State.fail_eq_failed]⟩

theorem State.perform_of_pass {s : State} {checks : List (Bool × ErrCode)} (h : ∀ c ∈ checks, c.1 = true)
    (effects : Unit → State) : s.perform checks effects = .next (effects ()) := by
  simp [State.perform, (firstFailure_eq_none checks).mpr h]

theorem State.perform_of_fail {s : State} {checks : List (Bool × ErrCode)} {code : ErrCode}
    (h : firstFailure checks = some code) (effects : Unit → State) :
    s.perform checks effects = .next (s.failed code) := by
  simp [State.perform, h, State.fail_eq_failed]

/-- RIDX selects RKi for i = 0..4 and nothing for 5 to 7 (R81, R83). -/
theorem RoundKeys.select_eq (k : RoundKeys) (r : BitVec 3) :
    k.select r = if h : r.toNat < 5 then some (k.get ⟨r.toNat, h⟩) else none := by
  obtain ⟨n, hn⟩ : ∃ n, r.toNat = n := ⟨_, rfl⟩
  have : n < 8 := by omega
  simp only [RoundKeys.select, hn]
  interval_cases n <;> rfl

/-- Everything the round-index commands can do before their effect (R202). -/
theorem State.withRoundKey_eq (s : State) (r : BitVec 3) (effect : DWord → State) :
    s.withRoundKey r effect =
      if h : r.toNat < 5 then
        if s.operands.rkValid = true then .next (effect (s.operands.rk.get ⟨r.toNat, h⟩)) else .next (s.failed .noKey)
      else .next (s.failed .illegalCmd) := by
  unfold State.withRoundKey
  rw [RoundKeys.select_eq]
  split_ifs with h hv
  · simp [State.perform, firstFailure, hv]
  · simp [State.perform, firstFailure, hv, State.fail_eq_failed]
  · simp [State.fail_eq_failed]

theorem Region.valid_iff (p : Params) (g : Region) :
    g.valid p = true ↔ g.len = 0 ∨ g.addr + g.len ≤ p.dmemBytes := by
  simp [Region.valid]

theorem Region.overlaps_iff (g h : Region) :
    g.overlaps h = true ↔ 0 < g.len ∧ 0 < h.len ∧ g.addr < h.addr + h.len ∧ h.addr < g.addr + g.len := by
  simp [Region.overlaps, and_assoc]

@[simp] theorem State.length_memRead (s : State) (g : Region) : (s.memRead g).1.length = g.len := by
  simp [State.memRead_fst]

theorem State.reads_memRead (s : State) (g : Region) : s.dmem.Reads g.addr (s.memRead g).1 := by
  rw [State.memRead_fst]
  exact Memory.reads_readBytes _ _ _ _

/-- A command's write stays within DMEM where its region is valid, so it keeps the canonical form. -/
theorem State.wf_memWrite {s : State} {p : Params} {g : Region} (hm : s.dmem.wf p.dmemBytes) (hg : g.valid p = true)
    {bs : List Byte} (hl : bs.length = g.len) : (s.memWrite g.addr bs).dmem.wf p.dmemBytes := by
  refine Memory.wf_writeBytes bs hm ?_
  rcases (Region.valid_iff p g).mp hg with h | h
  · exact .inl (List.length_eq_zero_iff.mp (by omega))
  · exact .inr (by omega)

end Sys2Proof.Machine
end

