-- ==== Sys2Proof/Laws/Cipher.lean ====
section
/-!
SUPPORT. The lengths of what the cipher and codec functions answer.
-/

namespace Sys2Proof.Machine

@[simp] theorem Block.length_toBytes (b : Block) : b.toBytes.length = 16 := rfl

/-- A chunk is always a whole block (R150). -/
@[simp] theorem length_chunk (p : List Byte) (j : Nat) : (chunk p j).length = 16 := by
  simp only [chunk, List.length_append, List.length_replicate, List.length_take, List.length_drop]
  omega

/-- Byte i of chunk j is byte 16j + i of the text, 0 past its end (R150). -/
theorem getElem?_chunk (p : List Byte) (j : Nat) {i : Nat} (hi : i < 16) :
    (chunk p j)[i]? = some (p.getD (16 * j + i) 0) := by
  have hl : ((p.drop (16 * j)).take 16).length = min 16 (p.length - 16 * j) := by simp
  simp only [chunk, List.getD_eq_getElem?_getD]
  by_cases h : 16 * j + i < p.length
  · rw [List.getElem?_append_left (by omega), List.getElem?_take_of_lt hi, List.getElem?_drop,
      List.getElem?_eq_getElem h]
    rfl
  · rw [List.getElem?_append_right (by omega), List.getElem?_replicate, if_pos (by omega),
      List.getElem?_eq_none (by omega)]
    rfl

/-- A list made of 16-byte pieces. -/
theorem length_flatMap_blocks (f : Nat → Block) (m : Nat) :
    ((List.range m).flatMap fun j => (f j).toBytes).length = 16 * m := by
  simp [List.length_flatMap, Nat.mul_comm]

/-- Byte i of piece j. -/
theorem getElem?_flatMap_blocks (f : Nat → Block) (m : Nat) {j i : Nat} (hj : j < m) (hi : i < 16) :
    ((List.range m).flatMap fun j => (f j).toBytes)[16 * j + i]? = (f j).toBytes[i]? := by
  induction m with
  | zero => omega
  | succ m ih =>
    rw [List.range_succ, List.flatMap_append]
    have hl := length_flatMap_blocks f m
    by_cases h : j < m
    · rw [List.getElem?_append_left (by omega), ih h]
    · have : j = m := by omega
      subst this
      rw [List.getElem?_append_right (by omega), hl]
      simp

/-- The ciphertext has `16 × ceil(n / 16)` bytes (R151). -/
@[simp] theorem length_ecbEncrypt (p : List Byte) (k : RoundKeys) : (ecbEncrypt p k).length = paddedLen p.length :=
  length_flatMap_blocks (fun j => blockEncrypt (Block.ofBytes (chunk p j)) k) _

/-- Byte i of ciphertext block j (R151). -/
theorem getElem?_ecbEncrypt (p : List Byte) (k : RoundKeys) {j i : Nat} (hj : j < (p.length + 15) / 16) (hi : i < 16) :
    (ecbEncrypt p k)[16 * j + i]? = (blockEncrypt (Block.ofBytes (chunk p j)) k).toBytes[i]? :=
  getElem?_flatMap_blocks (fun j => blockEncrypt (Block.ofBytes (chunk p j)) k) _ hj hi

@[simp] theorem length_ecbBuffer (c : List Byte) (k : RoundKeys) :
    (ecbBuffer c k).length = 16 * (c.length / 16) :=
  length_flatMap_blocks (fun j => blockDecrypt (Block.ofBytes (chunk c j)) k) _

/-- Byte i of decrypted block j (R152). -/
theorem getElem?_ecbBuffer (c : List Byte) (k : RoundKeys) {j i : Nat} (hj : j < c.length / 16) (hi : i < 16) :
    (ecbBuffer c k)[16 * j + i]? = (blockDecrypt (Block.ofBytes (chunk c j)) k).toBytes[i]? :=
  getElem?_flatMap_blocks (fun j => blockDecrypt (Block.ofBytes (chunk c j)) k) _ hj hi

/-- "each byte → 2 lowercase hex characters" (R171). -/
@[simp] theorem length_bytesToHex (b : List Byte) : (bytesToHex b).length = 2 * b.length := by
  simp [bytesToHex, List.length_flatMap, Nat.mul_comm]

/-- A decoded text has half as many bytes, and its length is even (R172). -/
theorem length_hexToBytes (up : Bool) : ∀ (c out : List Byte), hexToBytes up c = some out → c.length = 2 * out.length
  | [], out, h => by
    have : [] = out := by simpa [hexToBytes] using h
    simp [← this]
  | [_], out, h => by simp [hexToBytes] at h
  | x :: y :: rest, out, h => by
    rw [hexToBytes] at h
    split at h
    · next hd ld tl _ _ htl =>
      have := length_hexToBytes up rest tl htl
      have ho := Option.some.inj h
      simp [← ho, this]
      omega
    · exact absurd h (by simp)

/-- The strip of R152 stops at a nonzero byte or at 0. -/
theorem depadFrom_le (out : List Byte) (t : Nat) : depadFrom out t ≤ t := by
  induction t with
  | zero => exact Nat.le_refl _
  | succ t ih => unfold depadFrom; split_ifs <;> omega

end Sys2Proof.Machine
end

