-- ==== Sys2Proof/Laws/Codec.lean ====
section
/-!
SUPPORT. The hex codec one character at a time: a nibble's character reads back, a byte is its two nibbles, and which
character stands where in an encoded text.
-/

namespace Sys2Proof.Machine

/-- A written character reads back as its nibble, whether or not upper case is accepted (R170). -/
theorem hexDigit_hexChar (v : BitVec 4) (up : Bool) : hexDigit up (hexChar v) = some v := by
  revert v up
  decide

/-- A byte is its high nibble before its low nibble (R171). -/
theorem append_nibbles (v : Byte) : (v.extractLsb' 4 4 ++ v.extractLsb' 0 4 : BitVec 8) = v := by
  revert v
  decide +kernel

/-- The nibbles of a pair that R172 puts together. -/
theorem nibbles_append (x y : BitVec 4) :
    (x ++ y : BitVec 8).extractLsb' 4 4 = x ∧ (x ++ y : BitVec 8).extractLsb' 0 4 = y := by
  revert x y
  decide +kernel

theorem bytesToHex_cons (v : Byte) (b : List Byte) :
    bytesToHex (v :: b) = hexChar (v.extractLsb' 4 4) :: hexChar (v.extractLsb' 0 4) :: bytesToHex b := rfl

/-- Characters 2j and 2j + 1 are those of byte j (R171). -/
theorem getElem?_bytesToHex (b : List Byte) {j : Nat} (hj : j < b.length) :
    (bytesToHex b)[2 * j]? = some (hexChar ((b.getD j 0).extractLsb' 4 4)) ∧
      (bytesToHex b)[2 * j + 1]? = some (hexChar ((b.getD j 0).extractLsb' 0 4)) := by
  induction b generalizing j with
  | nil => simp at hj
  | cons v b ih =>
    rw [bytesToHex_cons]
    cases j with
    | zero => simp
    | succ j =>
      have := ih (by simpa using hj)
      rw [show 2 * (j + 1) = 2 * j + 1 + 1 by omega, show 2 * j + 1 + 1 + 1 = (2 * j + 1) + 1 + 1 by omega]
      simpa using this

end Sys2Proof.Machine
end

