-- ==== Sys2Proof/Laws/Step.lean ====
section
/-!
SUPPORT. What one step does, by the head of the event queue, what the address map admits, and how the encoding of a host
program is joined.
-/

namespace Sys2Proof.Machine

theorem step_nil {s : State} (h : s.events = []) : step s = coreStep s := by
  simp [step, h]

theorem step_cons {s : State} {e : Event} {rest : List Event} (h : s.events = e :: rest) :
    step s = eventStep e { s with events := rest } := by
  simp [step, h]

theorem coreStep_of_idle {s : State} (h : s.pend = none) : coreStep s = .next s := by
  simp [coreStep, h]

theorem coreStep_of_pend {s : State} {p : Pending} (h : s.pend = some p) : coreStep s = completeWord p.word s := by
  simp [coreStep, h]

theorem completeWord_of_ok {w : Word} {i : Instr} (h : decode w = .ok i) (s : State) :
    completeWord w s = exec i s := by
  simp [completeWord, h]

theorem completeWord_of_error {w : Word} {e : DecodeError} (h : decode w = .error e) (s : State) :
    completeWord w s = .next (s.failed .illegalCmd) := by
  simp [completeWord, h, completeIllegal, State.fail_eq_failed]

theorem hostStep_of_error {t : Transaction} {s : State} {f : Fault} (h : target s.params t = .error f) :
    hostStep t s = .fault f := by
  simp [hostStep, h]

/-- The register map and the offsets agree (R23). -/
theorem regAt_offset (r : Reg) : regAt r.offset = some r := by
  cases r with
  | rkLo i => revert i; decide
  | rkHi i => revert i; decide
  | _ => rfl

/-- An offset is mapped only to the register that has it (R23). -/
theorem offset_of_regAt {n : Nat} {r : Reg} (h : regAt n = some r) : r.offset = n := by
  unfold regAt at h
  split at h <;> first | (obtain rfl := Option.some.inj h; rfl) | cases h

/-- A transaction that names a register in the form of R63 reaches it. -/
theorem target_reg (p : Params) (r : Reg) (a : Access) (h : a.size = .four) :
    target p { offset := r.offset, access := a } = .ok (.reg r) := by
  have hr := regAt_offset r
  have h4 : r.offset % 4 = 0 ∧ r.offset < 0x100 := by
    cases r with
    | rkLo i => revert i; decide
    | rkHi i => revert i; decide
    | _ => decide
  simp [target, h, AccessSize.bytes, h4, hr]

/-- A transaction in the form of R65 reaches its DMEM byte. -/
theorem target_dmem (p : Params) (a : Nat) (k : Access) (h1 : a % k.size.bytes = 0)
    (h2 : a + k.size.bytes ≤ p.dmemBytes) :
    target p { offset := 0x10000 + a, access := k } = .ok (.dmem a) := by
  have := (p.dmemBytes_legal).2.2
  have h0 : 0 < k.size.bytes := by cases k.size <;> decide
  simp only [target]
  rw [if_neg (by omega), if_neg (by omega), if_pos (by omega)]
  simp only [Nat.add_sub_cancel_left]
  rw [if_neg (by omega), if_neg (by omega)]

/-- A program's encoding is joined from its parts', and the `POLL`s of the first part are counted before those of the
second (R87). -/
theorem HostProgram.encodeFrom_append (b : Nat → Nat) (k : Nat) (p q : HostProgram) :
    HostProgram.encodeFrom b k (p ++ q) =
      HostProgram.encodeFrom b k p ++ HostProgram.encodeFrom b (k + p.countP HostLine.hasPoll) q := by
  induction p generalizing k with
  | nil => rfl
  | cons l p ih =>
    cases h : l.hasPoll <;>
      simp [HostProgram.encodeFrom, ih, h, Nat.add_assoc, Nat.add_comm 1]

end Sys2Proof.Machine
end

