-- ==== Sys2Proof/Laws/Exec.lean ====
section
/-!
SUPPORT. The memory commands as equations over `perform`, with the reads written out as projections, and the two forms of a
success and a failure as record updates.
-/

namespace Sys2Proof.Machine

theorem execKsched_eq (s : State) :
    execKsched s = s.perform [(s.operands.key.valid s.params, .range)] fun _ =>
      ((s.memRead s.operands.key).2.loadKey (keyFold (s.memRead s.operands.key).1)
        (keySchedule (s.memRead s.operands.key).1)).complete := rfl

/-- What ECB_ENC and ECB_DEC read: the key bytes, then the source bytes with the draws that go on from there. -/
def State.ecbKey (s : State) : List Byte := (s.memRead s.operands.key).1

/-- The source bytes an ECB command reads. -/
def State.ecbText (s : State) : List Byte := ((s.memRead s.operands.key).2.memRead s.operands.src).1

/-- The draw counter after an ECB command's reads. -/
def State.ecbDraws (s : State) : Nat := ((s.memRead s.operands.key).2.memRead s.operands.src).2.draws

@[simp] theorem State.length_ecbKey (s : State) : s.ecbKey.length = s.operands.keyLen.toNat :=
  s.length_memRead _

@[simp] theorem State.length_ecbText (s : State) : s.ecbText.length = s.operands.srcLen.toNat :=
  State.length_memRead _ _

theorem State.reads_ecbKey (s : State) : s.dmem.Reads s.operands.keyAddr.toNat s.ecbKey :=
  s.reads_memRead s.operands.key

theorem State.reads_ecbText (s : State) : s.dmem.Reads s.operands.srcAddr.toNat s.ecbText :=
  State.reads_memRead (s.memRead s.operands.key).2 s.operands.src

theorem State.le_ecbDraws (s : State) : s.draws ≤ s.ecbDraws :=
  (Memory.le_draws_readBytes _ _ _ _).trans (Memory.le_draws_readBytes _ _ _ _)

theorem execEcbEnc_eq (s : State) :
    execEcbEnc s = s.perform
      [(s.operands.key.valid s.params, .range), (s.operands.src.valid s.params, .range),
        ((s.operands.dst (paddedLen s.operands.src.len)).valid s.params, .range),
        (!s.operands.src.overlaps (s.operands.dst (paddedLen s.operands.src.len)), .overlap)] fun _ =>
      ((({ s with draws := s.ecbDraws }.memWrite s.operands.dstAddr.toNat
        (ecbEncrypt s.ecbText (keySchedule s.ecbKey))).withDstLen
        (paddedLen s.operands.src.len)).clearKey).complete := rfl

theorem execEcbDec_eq (s : State) :
    execEcbDec s = s.perform
      [(decide (s.operands.src.len % 16 = 0), .invalidInputLength), (s.operands.key.valid s.params, .range),
        (s.operands.src.valid s.params, .range), ((s.operands.dst s.operands.src.len).valid s.params, .range),
        (!s.operands.src.overlaps (s.operands.dst s.operands.src.len), .overlap)] fun _ =>
      ((({ s with draws := s.ecbDraws }.memWrite s.operands.dstAddr.toNat
        (ecbBuffer s.ecbText (keySchedule s.ecbKey))).withDstLen
        (depadFrom (ecbBuffer s.ecbText (keySchedule s.ecbKey)) s.ecbText.length)).clearKey).complete := rfl

theorem execHexEnc_eq (s : State) :
    execHexEnc s = s.perform
      [(s.operands.src.valid s.params, .range), ((s.operands.dst (2 * s.operands.src.len)).valid s.params, .range),
        (!s.operands.src.overlaps (s.operands.dst (2 * s.operands.src.len)), .overlap)] fun _ =>
      (((s.memRead s.operands.src).2.memWrite s.operands.dstAddr.toNat
        (bytesToHex (s.memRead s.operands.src).1)).withDstLen (2 * s.operands.src.len)).complete := rfl

theorem execHexDec_eq (s : State) :
    execHexDec s = s.perform
      [(decide (s.operands.src.len % 2 = 0), .malformedHex), (s.operands.src.valid s.params, .range),
        ((s.operands.dst (s.operands.src.len / 2)).valid s.params, .range),
        (!s.operands.src.overlaps (s.operands.dst (s.operands.src.len / 2)), .overlap)] fun _ =>
      match hexToBytes s.params.hexAcceptUpper (s.memRead s.operands.src).1 with
      | none => (s.memRead s.operands.src).2.fail .malformedHex
      | some out => (((s.memRead s.operands.src).2.memWrite s.operands.dstAddr.toNat out).withDstLen
          (s.operands.src.len / 2)).complete := rfl

end Sys2Proof.Machine
end

