-- ==== Sys2Proof/Laws/ExecCases.lean ====
section
/-!
SUPPORT. The inversion of `exec`: all that a completed command can be, said once. A failure leaves the state but for the
writes of R203 and the draws; a success is the command's effects, with the checks it passed.
-/

namespace Sys2Proof.Machine

/-- A failed completion of the state s (R203), after any number of draws. -/
def State.IsFailureOf (t s : State) : Prop :=
  ∃ code d, code ≠ .noError ∧ t = ({ s with draws := d }).failed code

theorem State.failed_isFailureOf (s : State) {code : ErrCode} (h : code ≠ .noError) :
    (s.failed code).IsFailureOf s := ⟨code, s.draws, h, rfl⟩

theorem State.perform_inv {s t : State} {checks : List (Bool × ErrCode)} {effects : Unit → State}
    (hc : ∀ c ∈ checks, c.2 ≠ .noError) (h : s.perform checks effects = .next t) :
    t.IsFailureOf s ∨ ((∀ c ∈ checks, c.1 = true) ∧ t = effects ()) := by
  rcases State.perform_cases s checks effects with ⟨hp, h'⟩ | ⟨code, hm, h'⟩ <;> rw [h'] at h <;> cases h
  · exact .inr ⟨hp, rfl⟩
  · exact .inl (State.failed_isFailureOf s (hc _ hm))

theorem State.withRoundKey_inv {s t : State} {r : BitVec 3} {effect : DWord → State}
    (h : s.withRoundKey r effect = .next t) :
    t.IsFailureOf s ∨
      ∃ hr : r.toNat < 5, s.operands.rkValid = true ∧ t = effect (s.operands.rk.get ⟨r.toNat, hr⟩) := by
  rw [State.withRoundKey_eq] at h
  split_ifs at h with h1 h2 <;> cases h
  · exact .inr ⟨h1, h2, rfl⟩
  · exact .inl (State.failed_isFailureOf s (by decide))
  · exact .inl (State.failed_isFailureOf s (by decide))

/-- A success of each command: the checks that passed and the state after its effects. -/
def Succeeds (i : Instr) (s t : State) : Prop :=
  let x := s.operands
  match i with
  | .nop => t = s.complete
  | .ksched => x.key.valid s.params = true ∧
      t = ((s.memRead x.key).2.loadKey (keyFold (s.memRead x.key).1) (keySchedule (s.memRead x.key).1)).complete
  | .kclear => t = s.clearKey.complete
  | .subst => t = (s.withWout (substitute x.win)).complete
  | .roundf r => ∃ hr : r.toNat < 5, x.rkValid = true ∧
      t = (s.withWout (roundF x.win (x.rk.get ⟨r.toNat, hr⟩))).complete
  | .rndEnc r => ∃ hr : r.toNat < 5, x.rkValid = true ∧
      t = (s.withBlk (roundEnc x.blk (x.rk.get ⟨r.toNat, hr⟩))).complete
  | .rndDec r => ∃ hr : r.toNat < 5, x.rkValid = true ∧
      t = (s.withBlk (roundDec x.blk (x.rk.get ⟨r.toNat, hr⟩))).complete
  | .blkEnc => x.rkValid = true ∧ t = (s.withBlk (blockEncrypt x.blk x.rk)).complete
  | .blkDec => x.rkValid = true ∧ t = (s.withBlk (blockDecrypt x.blk x.rk)).complete
  | .ecbEnc =>
      (x.key.valid s.params = true ∧ x.src.valid s.params = true ∧ (x.dst (paddedLen x.src.len)).valid s.params = true ∧
        x.src.overlaps (x.dst (paddedLen x.src.len)) = false) ∧
      t = ((({ s with draws := s.ecbDraws }.memWrite x.dstAddr.toNat
        (ecbEncrypt s.ecbText (keySchedule s.ecbKey))).withDstLen (paddedLen x.src.len)).clearKey).complete
  | .ecbDec =>
      (x.src.len % 16 = 0 ∧ x.key.valid s.params = true ∧ x.src.valid s.params = true ∧
        (x.dst x.src.len).valid s.params = true ∧ x.src.overlaps (x.dst x.src.len) = false) ∧
      t = ((({ s with draws := s.ecbDraws }.memWrite x.dstAddr.toNat
        (ecbBuffer s.ecbText (keySchedule s.ecbKey))).withDstLen
        (depadFrom (ecbBuffer s.ecbText (keySchedule s.ecbKey)) s.ecbText.length)).clearKey).complete
  | .hexEnc =>
      (x.src.valid s.params = true ∧ (x.dst (2 * x.src.len)).valid s.params = true ∧
        x.src.overlaps (x.dst (2 * x.src.len)) = false) ∧
      t = (((s.memRead x.src).2.memWrite x.dstAddr.toNat
        (bytesToHex (s.memRead x.src).1)).withDstLen (2 * x.src.len)).complete
  | .hexDec =>
      (x.src.len % 2 = 0 ∧ x.src.valid s.params = true ∧ (x.dst (x.src.len / 2)).valid s.params = true ∧
        x.src.overlaps (x.dst (x.src.len / 2)) = false) ∧
      ∃ out, hexToBytes s.params.hexAcceptUpper (s.memRead x.src).1 = some out ∧ out.length = x.src.len / 2 ∧
        t = (((s.memRead x.src).2.memWrite x.dstAddr.toNat out).withDstLen (x.src.len / 2)).complete

theorem execHexDec_cases {s t : State} (h : execHexDec s = .next t) : t.IsFailureOf s ∨ Succeeds .hexDec s t := by
  rw [execHexDec_eq] at h
  refine (State.perform_inv (by simp) h).elim .inl fun ⟨hp, ht⟩ => ?_
  simp only [List.mem_cons, List.not_mem_nil, or_false, forall_eq_or_imp, forall_eq, decide_eq_true_eq,
    Bool.not_eq_true'] at hp
  cases ho : hexToBytes s.params.hexAcceptUpper (s.memRead s.operands.src).1 with
  | none =>
    rw [ho] at ht
    exact .inl ⟨.malformedHex, (s.memRead s.operands.src).2.draws, by decide, ht.trans (State.fail_eq_failed _ _)⟩
  | some out =>
    rw [ho] at ht
    have hl := length_hexToBytes _ _ _ ho
    rw [State.length_memRead] at hl
    exact .inr ⟨hp, out, ho, by omega, ht⟩

/-- Everything `exec` can answer when it answers a next state. -/
theorem exec_cases {i : Instr} {s t : State} (h : exec i s = .next t) : t.IsFailureOf s ∨ Succeeds i s t := by
  cases i with
  | nop => exact (State.perform_inv (checks := []) (effects := fun _ => s.complete) (by simp) h).imp id And.right
  | kclear =>
    exact (State.perform_inv (checks := []) (effects := fun _ => s.clearKey.complete) (by simp) h).imp id And.right
  | subst =>
    exact (State.perform_inv (checks := []) (effects := fun _ => (s.withWout (substitute s.operands.win)).complete)
      (by simp) h).imp id And.right
  | roundf r => exact State.withRoundKey_inv h
  | rndEnc r => exact State.withRoundKey_inv h
  | rndDec r => exact State.withRoundKey_inv h
  | ksched =>
    have h : execKsched s = .next t := h
    rw [execKsched_eq] at h
    exact (State.perform_inv (by simp) h).imp id fun ⟨hp, ht⟩ => ⟨by simpa using hp, ht⟩
  | blkEnc =>
    have h : execBlkEnc s = .next t := h
    unfold execBlkEnc at h
    exact (State.perform_inv (by simp) h).imp id fun ⟨hp, ht⟩ => ⟨by simpa using hp, ht⟩
  | blkDec =>
    have h : execBlkDec s = .next t := h
    unfold execBlkDec at h
    exact (State.perform_inv (by simp) h).imp id fun ⟨hp, ht⟩ => ⟨by simpa using hp, ht⟩
  | ecbEnc =>
    have h : execEcbEnc s = .next t := h
    rw [execEcbEnc_eq] at h
    exact (State.perform_inv (by simp) h).imp id fun ⟨hp, ht⟩ => ⟨by simpa using hp, ht⟩
  | ecbDec =>
    have h : execEcbDec s = .next t := h
    rw [execEcbDec_eq] at h
    exact (State.perform_inv (by simp) h).imp id fun ⟨hp, ht⟩ => ⟨by simpa using hp, ht⟩
  | hexEnc =>
    have h : execHexEnc s = .next t := h
    rw [execHexEnc_eq] at h
    exact (State.perform_inv (by simp) h).imp id fun ⟨hp, ht⟩ => ⟨by simpa using hp, ht⟩
  | hexDec => exact execHexDec_cases h

end Sys2Proof.Machine
end

