-- ==== Sys2Proof/Laws/PerInstr.lean ====
section
/-!
SUPPORT. Per-instruction facts about the encoding: the fields of each command's word (R80, R82).
-/

namespace Sys2Proof

theorem opcField_encode (i : Instr) : opcField (encode i) = i.opcode := by
  apply BitVec.eq_of_getLsbD_eq
  intro j hj
  have e : encode i = (0#21 ++ i.ridx ++ i.opcode : BitVec (21 + 3 + 8)) := rfl
  rw [opcField, BitVec.getLsbD_extractLsb', e, BitVec.getLsbD_append]
  simp [hj]

theorem ridxField_encode (i : Instr) : ridxField (encode i) = i.ridx := by
  apply BitVec.eq_of_getLsbD_eq
  intro j hj
  have e : encode i = (0#21 ++ i.ridx ++ i.opcode : BitVec (21 + 3 + 8)) := rfl
  rw [ridxField, BitVec.getLsbD_extractLsb', e, BitVec.getLsbD_append, BitVec.getLsbD_append]
  simp [hj]

theorem rsvField_encode (i : Instr) : rsvField (encode i) = 0 := by
  apply BitVec.eq_of_getLsbD_eq
  intro j hj
  have e : encode i = (0#21 ++ i.ridx ++ i.opcode : BitVec (21 + 3 + 8)) := rfl
  rw [rsvField, BitVec.getLsbD_extractLsb', e, BitVec.getLsbD_append, BitVec.getLsbD_append]
  simp [show ¬ (11 + j < 8) by omega, show ¬ (11 + j - 8 < 3) by omega]
namespace Laws.WordFields

/-- The command's word holds its opcode in bits 7:0 and its round index in bits 10:8, with bits 31:11 zero (R80), and a
command without a round index has 0 there (R82). -/
def Statement (i : Instr) : Prop :=
  (encode i).toNat = i.opcode.toNat + 256 * i.ridx.toNat ∧ rsvField (encode i) = 0

theorem nop : Statement .nop := ⟨by decide, by decide⟩
theorem ksched : Statement .ksched := ⟨by decide, by decide⟩
theorem kclear : Statement .kclear := ⟨by decide, by decide⟩
theorem subst : Statement .subst := ⟨by decide, by decide⟩
theorem roundf (r : BitVec 3) : Statement (.roundf r) := by
  refine ⟨?_, rsvField_encode _⟩
  revert r; decide
theorem rndEnc (r : BitVec 3) : Statement (.rndEnc r) := by
  refine ⟨?_, rsvField_encode _⟩
  revert r; decide
theorem rndDec (r : BitVec 3) : Statement (.rndDec r) := by
  refine ⟨?_, rsvField_encode _⟩
  revert r; decide
theorem blkEnc : Statement .blkEnc := ⟨by decide, by decide⟩
theorem blkDec : Statement .blkDec := ⟨by decide, by decide⟩
theorem ecbEnc : Statement .ecbEnc := ⟨by decide, by decide⟩
theorem ecbDec : Statement .ecbDec := ⟨by decide, by decide⟩
theorem hexEnc : Statement .hexEnc := ⟨by decide, by decide⟩
theorem hexDec : Statement .hexDec := ⟨by decide, by decide⟩

end Laws.WordFields

end Sys2Proof
end

