-- ==== Sys2Proof/Laws/Run.lean ====
section
/-!
SUPPORT. How a step consumes the event queue, and how a run of the machine unfolds by one step.
-/

namespace Sys2Proof.Machine

theorem State.perform_next (s : State) (checks : List (Bool × ErrCode)) (effects : Unit → State) :
    ∃ t, s.perform checks effects = .next t := by
  unfold State.perform
  split <;> exact ⟨_, rfl⟩

theorem State.withRoundKey_next (s : State) (r : BitVec 3) (effect : DWord → State) :
    ∃ t, s.withRoundKey r effect = .next t := by
  unfold State.withRoundKey
  split
  · exact ⟨_, rfl⟩
  · exact s.perform_next _ _

/-- Completing a word leaves the queue alone and empties PEND. -/
theorem coreStep_frame {s t : State} (h : coreStep s = .next t) : t.events = s.events ∧ t.pend = none := by
  unfold coreStep at h
  split at h
  · unfold completeWord at h
    split at h
    · rename_i i _
      rcases exec_cases h with ⟨_, _, _, rfl⟩ | h'
      · exact ⟨rfl, rfl⟩
      · cases i with
        | nop => cases h'; exact ⟨rfl, rfl⟩
        | kclear => cases h'; exact ⟨rfl, rfl⟩
        | subst => cases h'; exact ⟨rfl, rfl⟩
        | roundf r => obtain ⟨_, _, rfl⟩ := h'; exact ⟨rfl, rfl⟩
        | rndEnc r => obtain ⟨_, _, rfl⟩ := h'; exact ⟨rfl, rfl⟩
        | rndDec r => obtain ⟨_, _, rfl⟩ := h'; exact ⟨rfl, rfl⟩
        | blkEnc => obtain ⟨_, rfl⟩ := h'; exact ⟨rfl, rfl⟩
        | blkDec => obtain ⟨_, rfl⟩ := h'; exact ⟨rfl, rfl⟩
        | ksched => obtain ⟨_, rfl⟩ := h'; exact ⟨rfl, rfl⟩
        | ecbEnc => obtain ⟨_, rfl⟩ := h'; exact ⟨rfl, rfl⟩
        | ecbDec => obtain ⟨_, rfl⟩ := h'; exact ⟨rfl, rfl⟩
        | hexEnc => obtain ⟨_, rfl⟩ := h'; exact ⟨rfl, rfl⟩
        | hexDec => obtain ⟨_, _, _, _, rfl⟩ := h'; exact ⟨rfl, rfl⟩
    · cases h
      exact ⟨rfl, rfl⟩
  · rename_i hp
    cases h
    exact ⟨rfl, hp⟩

@[simp] theorem State.events_writeCtrl (s : State) (v : Word) : (s.writeCtrl v).events = s.events := by
  unfold State.writeCtrl
  split <;> rfl

theorem hostStep_events {x : Transaction} {s t : State} (h : hostStep x s = .next t) : t.events = s.events := by
  unfold hostStep at h
  split at h
  · cases h
  · cases h
    unfold State.hostReadReg
    split <;> rfl
  · cases h
    unfold State.hostWriteReg
    rename_i r _ _ _
    split <;> cases r <;> first | rfl | exact s.events_writeCtrl _
  · cases h
    unfold State.hostReadDmem
    split <;> rfl
  · cases h
    unfold State.hostWriteDmem
    split <;> rfl

/-- A step takes one event, the next one. -/
theorem step_events {s t : State} {e : Event} {rest : List Event} (he : s.events = e :: rest)
    (h : step s = .next t) : t.events = rest := by
  rw [step_cons he] at h
  unfold eventStep at h
  split at h
  · split at h
    · exact hostStep_events h
    · cases h
  · exact (coreStep_frame h).1
  · cases h
    rfl
  · cases h
    rfl

theorem run_succ_of_next {n : Nat} {s s' : State} (h : step s = .next s') : core.run (n + 1) s = core.run n s' := by
  have h : core.step s = _ := h
  simp only [Host.Core.run, h]

theorem run_succ_of_fault {n : Nat} {s : State} {f : Fault} (h : step s = .fault f) :
    core.run (n + 1) s = .fault f := by
  have h : core.step s = _ := h
  simp only [Host.Core.run, h]

theorem run_succ_of_refused {n : Nat} {s : State} {r : Refusal} (h : step s = .refused r) :
    core.run (n + 1) s = .refused r := by
  have h : core.step s = _ := h
  simp only [Host.Core.run, h]

end Sys2Proof.Machine
end

