-- ==== Sys2Proof/Tests/Slice0.lean ====
section
/-!
SUPPORT. Tests against values printed in the spec (the vectors of 95_test_vectors.md, named in each docstring), and for
every statement with hypotheses a witness that meets them together, clause by clause.
-/

open Sys2Proof Sys2Proof.Machine

/-! ### Builders -/

/-- The next state, where there is one. -/
def Tests.after (o : Host.Outcome State Fault Refusal) : Option State :=
  match o with
  | .next s => some s
  | .fault _ => none
  | .refused _ => none

/-- The fault, where there is one. -/
def Tests.faultOf (o : Host.Outcome State Fault Refusal) : Option Fault :=
  match o with
  | .next _ => none
  | .fault f => some f
  | .refused _ => none

/-- Reset, then bytes written at addresses. -/
def Tests.mem (l : List (Nat × List Byte)) : State :=
  l.foldl (fun s x => s.memWrite x.1 x.2) State.reset

/-- Reset, then the key "test" as V-KS-2 prints its registers. -/
def Tests.keyed : State :=
  State.reset.loadKey 0x0000000074657374
    { rk0 := 0xC66B6E08640758B3, rk1 := 0xF78A96AAF5E1E5C6, rk2 := 0x15FD1006C5581F1D, rk3 := 0x514DCA3617355C68,
      rk4 := 0xA3BE944A2D285797 }

/-- FB, "HELLO WORLD!!!!" and one 0x00. -/
def Tests.fb : Block := { a := 0x48454C4C, b := 0x4F20574F, c := 0x524C4421, d := 0x21212100 }

/-- "test". -/
def Tests.key : List Byte := [0x74, 0x65, 0x73, 0x74]

/-- "HELLO WORLD!!!!". -/
def Tests.hello : List Byte :=
  [0x48, 0x45, 0x4C, 0x4C, 0x4F, 0x20, 0x57, 0x4F, 0x52, 0x4C, 0x44, 0x21, 0x21, 0x21, 0x21]

/-- V-ECB-2's ciphertext. -/
def Tests.cipher : List Byte :=
  [0xB9, 0x83, 0x15, 0x92, 0x90, 0x75, 0xD6, 0x74, 0xFB, 0x17, 0x2B, 0x28, 0x5F, 0x38, 0xC6, 0xD0]

/-- The key "test" at 0, a source at 0x10, and a destination at 0x40 (P1). -/
def Tests.ecb (src : List Byte) : State :=
  { Tests.mem [(0, Tests.key), (0x10, src)] with
    keyLen := 4, srcAddr := 0x10, srcLen := BitVec.ofNat 32 src.length, dstAddr := 0x40 }

/-- A source at 0 and a destination at 0x40. -/
def Tests.hex (src : List Byte) : State :=
  { Tests.mem [(0, src)] with srcLen := BitVec.ofNat 32 src.length, dstAddr := 0x40 }

/-- The bytes that stand at an address, none where one is unspecified. -/
def Tests.bytesAt (s : State) (a n : Nat) : Option (List Byte) := ((List.range n).map fun j => s.dmem.get? (a + j)).mapM id

/-- A command in flight, as after `CMD` with nothing else done. -/
def Tests.inFlight (w : Word) (s : State) : State := s.issue w

/-! ### Well-formedness and decoding -/

theorem test_illFormed_roundf : (Instr.roundf 5).wellFormed = false := by decide
theorem test_illFormed_rndEnc : (Instr.rndEnc 6).wellFormed = false := by decide
theorem test_illFormed_rndDec : (Instr.rndDec 7).wellFormed = false := by decide
theorem test_wellFormed_rndDec_4 : (Instr.rndDec 4).wellFormed = true := by decide

/- Words written out as RSV (21 bits), RIDX (3 bits), OPC (8 bits) of R80, with the opcodes of R82. -/
theorem test_decode_nop : decode (0b000000000000000000000#21 ++ 0b000#3 ++ 0b00000000#8 : BitVec 32) = .ok .nop := by decide
theorem test_decode_ksched : decode (0b000000000000000000000#21 ++ 0b000#3 ++ 0b00000001#8 : BitVec 32) = .ok .ksched := by
  decide
theorem test_decode_kclear : decode (0b000000000000000000000#21 ++ 0b000#3 ++ 0b00000010#8 : BitVec 32) = .ok .kclear := by
  decide
theorem test_decode_subst : decode (0b000000000000000000000#21 ++ 0b000#3 ++ 0b00000011#8 : BitVec 32) = .ok .subst := by
  decide
theorem test_decode_roundf :
    decode (0b000000000000000000000#21 ++ 0b010#3 ++ 0b00000100#8 : BitVec 32) = .ok (.roundf 2) := by decide
theorem test_decode_rndEnc :
    decode (0b000000000000000000000#21 ++ 0b100#3 ++ 0b00000101#8 : BitVec 32) = .ok (.rndEnc 4) := by decide
theorem test_decode_rndDec :
    decode (0b000000000000000000000#21 ++ 0b001#3 ++ 0b00000110#8 : BitVec 32) = .ok (.rndDec 1) := by decide
theorem test_decode_blkEnc : decode (0b000000000000000000000#21 ++ 0b000#3 ++ 0b00000111#8 : BitVec 32) = .ok .blkEnc := by
  decide
theorem test_decode_blkDec : decode (0b000000000000000000000#21 ++ 0b000#3 ++ 0b00001000#8 : BitVec 32) = .ok .blkDec := by
  decide
theorem test_decode_ecbEnc : decode (0b000000000000000000000#21 ++ 0b000#3 ++ 0b00001001#8 : BitVec 32) = .ok .ecbEnc := by
  decide
theorem test_decode_ecbDec : decode (0b000000000000000000000#21 ++ 0b000#3 ++ 0b00001010#8 : BitVec 32) = .ok .ecbDec := by
  decide
theorem test_decode_hexEnc : decode (0b000000000000000000000#21 ++ 0b000#3 ++ 0b00001011#8 : BitVec 32) = .ok .hexEnc := by
  decide
theorem test_decode_hexDec : decode (0b000000000000000000000#21 ++ 0b000#3 ++ 0b00001100#8 : BitVec 32) = .ok .hexDec := by
  decide

/-- V-CTL-2: the illegal words, each by the condition of R83 it breaks. -/
theorem test_decode_illegal :
    decode 0x0000000D = .error .unknownOpcode ∧ decode 0x000000FF = .error .unknownOpcode ∧
      decode 0x00000800 = .error .reservedBitsSet ∧ decode 0x80000000 = .error .reservedBitsSet ∧
      decode 0x00000504 = .error .roundIndexOutOfRange ∧ decode 0x00000704 = .error .roundIndexOutOfRange ∧
      decode 0x00000100 = .error .roundIndexNotZero ∧ decode 0x0000010C = .error .roundIndexNotZero := by decide

theorem test_decodeTableWord :
    decodeTableWord 32 0x00000406 = some (.rndDec 4) ∧ decodeTableWord 32 0x00000506 = none := by decide

/-- A word placed by `withFetchWord` is the first command after reset: V-CTL-1. -/
theorem test_step_fetched_nop :
    (Tests.after (step (State.reset.withFetchWord 32 0))).map (fun s => (s.status.toWord, s.cmd, s.pend)) =
      some (0x00000002, 0x00000000, none) := by decide

/-! ### Commands -/

/-- V-CTL-5: a success keeps ERR and ERRCODE. -/
theorem test_nop_keeps_err :
    (Tests.after (exec .nop (State.reset.failed .illegalCmd))).map (·.status.toWord) = some 0x00000106 := by decide

/-- V-KS-2. -/
theorem test_ksched :
    (Tests.after (exec .ksched { Tests.mem [(0, Tests.key)] with keyLen := 4 })).map
      (fun s => (s.kfold, s.rk, s.status.toWord)) = some (Tests.keyed.kfold, Tests.keyed.rk, 0x0000000A) := by decide +kernel

/-- V-KS-13: the sum of KEY_ADDR and KEY_LEN does not wrap. -/
theorem test_ksched_range :
    (Tests.after (exec .ksched { Tests.keyed with keyAddr := 0xFFFFFFFF, keyLen := 2 })).map
      (fun s => (s.rk, s.status.toWord)) = some (Tests.keyed.rk, 0x0000050E) := by decide

/-- V-KS-15. -/
theorem test_kclear :
    (Tests.after (exec .kclear Tests.keyed)).map (fun s => (s.kfold, s.rk, s.status.toWord)) =
      some (0, RoundKeys.zero, 0x00000002) := by decide

/-- V-F-12. -/
theorem test_subst :
    (Tests.after (exec .subst { State.reset with win := 0x01234567 })).map (fun s => (s.wout, s.status.toWord)) =
      some (0x3FE1075A, 0x00000002) := by decide

/-- V-F-3. -/
theorem test_roundf_2 :
    (Tests.after (exec (.roundf 2) { Tests.keyed with win := 0x12345678 })).map (·.wout) = some 0xFF5B3F3F := by decide

/-- V-F-11. -/
theorem test_roundf_noKey :
    (Tests.after (exec (.roundf 0) { State.reset with win := 0x12345678 })).map (fun s => (s.wout, s.status.toWord)) =
      some (0, 0x00000206) := by decide

/-- V-F-7 and V-F-10, on F itself. -/
theorem test_roundF :
    roundF 0x12345678 0xABCDEF00FFFFFFFF = 0xFFFFFFFF ∧ roundF 0x80000001 0x00000000FFFF0000 = 0xFFFF3333 := by decide

/-- V-RND-3. -/
theorem test_rndEnc_1 :
    (Tests.after (exec (.rndEnc 1) { Tests.keyed with blk := Tests.fb })).map (·.blk) =
      some { a := 0xB0DFA881, b := 0x2B3F3B39, c := 0x425B5675, d := 0xA5B3B3E7 } := by decide

/-- V-RND-2. -/
theorem test_rndDec_0 :
    (Tests.after (exec (.rndDec 0) { Tests.keyed with
      blk := { a := 0xAB170CBC, b := 0xBAD9864C, c := 0xD3BDEB00, d := 0xB57BBF9E } })).map (·.blk) =
      some Tests.fb := by decide

/-- V-BLK-1. -/
theorem test_blkEnc :
    (Tests.after (exec .blkEnc { Tests.keyed with blk := Tests.fb })).map (·.blk) =
      some { a := 0xB9831592, b := 0x9075D674, c := 0xFB172B28, d := 0x5F38C6D0 } := by decide +kernel

/-- V-BLK-6. -/
theorem test_blkDec :
    (Tests.after (exec .blkDec Tests.keyed)).map (·.blk) =
      some { a := 0x735C645A, b := 0x6FA40A19, c := 0x6FA40A19, d := 0x735C645A } := by decide +kernel

/-- V-ECB-2. -/
theorem test_ecbEnc :
    (Tests.after (exec .ecbEnc (Tests.ecb Tests.hello))).map
      (fun s => (Tests.bytesAt s 0x40 16, s.dstLen, s.status.toWord)) = some (some Tests.cipher, 16, 0x00000002) := by
  decide +kernel

/-- V-ECB-18 and V-ECB-16: a destination that starts where the source ends, and one whose end passes the source's start. -/
theorem test_ecbEnc_overlap :
    (Tests.after (exec .ecbEnc { Tests.ecb Tests.hello with dstAddr := 0x1F })).map (·.status.toWord) = some 0x00000002 ∧
      (Tests.after (exec .ecbEnc { Tests.ecb Tests.hello with dstAddr := 0x01 })).map (·.status.toWord) =
        some 0x00000606 := by decide +kernel

/-- V-ECB-6. -/
theorem test_ecbDec :
    (Tests.after (exec .ecbDec (Tests.ecb Tests.cipher))).map
      (fun s => (Tests.bytesAt s 0x40 16, s.dstLen, s.status.toWord)) =
      some (some (Tests.hello ++ [0x00]), 15, 0x00000002) := by decide +kernel

/-- V-ECB-22: the length form is checked before the ranges. -/
theorem test_ecbDec_length_first :
    (Tests.after (exec .ecbDec { State.reset with srcLen := 15, dstAddr := 0x40, keyAddr := 4095, keyLen := 2 })).map
      (·.status.toWord) = some 0x00000306 := by decide

/-- V-HEX-4. -/
theorem test_hexEnc :
    (Tests.after (exec .hexEnc (Tests.hex [0x7F, 0x80, 0x9A]))).map (fun s => (Tests.bytesAt s 0x40 6, s.dstLen)) =
      some (some [0x37, 0x66, 0x38, 0x30, 0x39, 0x61], 6) := by decide

/-- V-HEX-15. -/
theorem test_hexEnc_overlap :
    (Tests.after (exec .hexEnc { State.reset with srcAddr := 0x800, srcLen := 2048 })).map (·.status.toWord) =
      some 0x00000606 := by decide

/-- V-HEX-11, and MALFORMED_HEX for the same text with HEX_ACCEPT_UPPER = 0 (V-HEX-6). -/
theorem test_hexDec_upper :
    (Tests.after (exec .hexDec (Tests.hex [0x61, 0x42]))).map (fun s => (Tests.bytesAt s 0x40 1, s.dstLen)) =
        some (some [0xAB], 1) ∧
      (Tests.after (exec .hexDec { Tests.hex [0x61, 0x42] with params := { Params.default with hexAcceptUpper := false } })).map
        (fun s => (Tests.bytesAt s 0x40 1, s.status.toWord)) = some (none, 0x00000406) := by decide

/-- V-HEX-17 and V-HEX-18: overlap is checked before content. -/
theorem test_hexDec_order :
    (Tests.after (exec .hexDec { Tests.hex [0x30, 0x67, 0x30, 0x67] with dstAddr := 0x02 })).map (·.status.toWord) =
        some 0x00000606 ∧
      (Tests.after (exec .hexDec { Tests.hex [0x30, 0x67, 0x30, 0x67] with dstAddr := 0x04 })).map (·.status.toWord) =
        some 0x00000406 := by decide

/-! ### The host port -/

/-- V-CTL-8 and V-CTL-9. -/
theorem test_status_write :
    (({ State.reset with status := { Status.reset with err := true, errCode := .illegalCmd, ovf := true } }).writeStatus
        0x00000004).status.toWord = 0x00000010 ∧
      (({ State.reset with status := { Status.reset with done := true, rkValid := true, ovf := true } }).writeStatus
        0xFFFFFFFF).status.toWord = 0x00000008 := by decide

/-- V-CTL-17: OVF does not drive irq. -/
theorem test_irq :
    let s := ({ State.reset with status := { Status.reset with done := true, ovf := true } }).writeCtrl 0x00000001
    s.irq = true ∧ (s.writeStatus 0x00000002).irq = false := by decide

/-- V-BUS-3 to V-BUS-5, V-BUS-7, V-BUS-14 and V-BUS-15. -/
theorem test_buserr :
    Tests.faultOf (hostStep { offset := 0x000, access := .read .one } State.reset) = some (.busErr .registerAccess) ∧
      Tests.faultOf (hostStep { offset := 0x002, access := .read .four } State.reset) = some (.busErr .registerAccess) ∧
      Tests.faultOf (hostStep { offset := 0x02C, access := .read .four } State.reset) = some (.busErr .unmapped) ∧
      Tests.faultOf (hostStep { offset := 0x100, access := .read .four } State.reset) = some (.busErr .unmapped) ∧
      Tests.faultOf (hostStep { offset := 0x10000 + 4096, access := .read .one } State.reset) =
        some (.busErr .dmemPastEnd) ∧
      Tests.faultOf (hostStep { offset := 0x1FFFF, access := .write (.byte 0) } State.reset) =
        some (.busErr .dmemPastEnd) := by decide

/-- V-BUS-10 to V-BUS-12. -/
theorem test_dmem_big_endian :
    let s := Tests.mem [(0x10, Data.toBytes (.word 0x48454C4C))]
    (Tests.after (hostStep { offset := 0x10010, access := .read .one } s)).map (·.response) =
        some (some (.read (.byte 0x48))) ∧
      (Tests.after (hostStep { offset := 0x10012, access := .read .two } s)).map (·.response) =
        some (some (.read (.half 0x4C4C))) ∧
      Tests.faultOf (hostStep { offset := 0x10011, access := .read .two } s) = some (.busErr .dmemMisaligned) := by decide

/-- V-BUS-17 and V-BUS-18: writes while BUSY = 1. -/
theorem test_busy_writes :
    (Tests.after (hostStep { offset := 0x014, access := .write (.word 5) } (Tests.inFlight 0 State.reset))).map
        (fun s => (s.srcAddr, s.status.toWord)) = some (0, 0x00000011) ∧
      (Tests.after (hostStep { offset := 0x10000, access := .write (.byte 0x41) } (Tests.inFlight 0 State.reset))).map
        (fun s => (s.dmem, s.status.toWord)) = some ([], 0x00000011) := by decide

/-- The encoding of P2's line 4 and P5, with their `POLL`s read twice and once. -/
theorem test_program_encoding :
    HostProgram.encode (fun k => if k = 0 then 1 else 0)
        [.run .ksched, .cmd .nop, .w .srcAddr 0x00000005, .poll, .r .srcAddr] =
      [{ offset := 0x010, access := .write (.word 0x00000001) }, { offset := 0x00C, access := .read .four },
        { offset := 0x00C, access := .read .four }, { offset := 0x010, access := .write (.word 0x00000000) },
        { offset := 0x014, access := .write (.word 0x00000005) }, { offset := 0x00C, access := .read .four },
        { offset := 0x014, access := .read .four }] := by decide

/-- P6, outcome B: the hex text's region is spoiled and the byte before it stays. -/
theorem test_soft_reset_spoils :
    let s := (Tests.inFlight 0x0000000B { Tests.mem [(0x3F, List.replicate 3 0x55)] with srcLen := 1, dstAddr := 0x40 }).softReset
    s.dmem = [(0x3F, 0x55)] ∧ s.status.toWord = 0 ∧ s.pend = none := by decide

/-! ### Witnesses: states and operands that meet the hypotheses of the statements -/

/-- The hypotheses `Claims.Valid` and `Claims.Overlap` as decidable facts. -/
abbrev Tests.valid (s : State) (a : Word) (l : Nat) : Prop := l = 0 ∨ a.toNat + l ≤ s.params.dmemBytes

abbrev Tests.overlap (a1 : Word) (l1 : Nat) (a2 : Word) (l2 : Nat) : Prop :=
  0 < l1 ∧ 0 < l2 ∧ a1.toNat < a2.toNat + l2 ∧ a2.toNat < a1.toNat + l1

theorem Tests.holds_of {m : Memory} {a : Nat} {bs : List Byte} (h : ∀ j < bs.length, m.get? (a + j) = bs[j]?) :
    m.Holds a bs := h

theorem witness_DecodeIsExactlyTheInverseOfEncode :
    decode 0x00000405 = .ok (.rndEnc 4) ∧ (Instr.rndEnc 4).wellFormed = true ∧ encode (.rndEnc 4) = 0x00000405 := by
  decide

theorem witness_LegalWordsAreTheTwentyFiveOfR84 :
    (decode 0x0000000C = .ok .hexDec ∧ (0x0000000C : Word).toNat ≤ 0x0C) ∧
      (decode 0x00000406 = .ok (.rndDec 4) ∧ 1 ≤ 4 ∧ 4 ≤ 4 ∧ 0x100 * 4 + 0x04 ≤ (0x00000406 : Word).toNat ∧
        (0x00000406 : Word).toNat ≤ 0x100 * 4 + 0x06) := by decide

/-- The four illegal conditions at their edges, a word with none of them, and an idle state for the issue. -/
theorem witness_IllegalWordCompletesWithIllegalCmd :
    0x0D ≤ (0x0000000D : Word).toNat % 256 ∧ (0x00000800 : Word).toNat / 2048 ≠ 0 ∧
      ((0x00000504 : Word).toNat % 256 = 0x04 ∧ 5 ≤ (0x00000504 : Word).toNat / 256 % 8) ∧
      ((0x00000107 : Word).toNat % 256 = 0x07 ∧ (0x00000107 : Word).toNat / 256 % 8 ≠ 0) ∧
      ((0x00000406 : Word).toNat % 256 = 0x06 ∧ (0x00000406 : Word).toNat / 256 % 8 < 5 ∧
        (0x00000406 : Word).toNat / 2048 = 0) ∧
      State.reset.status.busy = false := by decide

/-- Both queues, a legal and an illegal word in flight, and a fetched word. -/
theorem witness_StepRunsTheDecodedCommand :
    (∃ p, (Tests.inFlight 0x00000204 Tests.keyed).pend = some p ∧ decode p.word = .ok (.roundf 2)) ∧
      (Tests.inFlight 0x00000204 Tests.keyed).events = [] ∧
      ({ Tests.inFlight 0x00000204 Tests.keyed with events := [.complete, .rstLow] }).events = [.complete, .rstLow] ∧
      (∃ p, (Tests.inFlight 0x00000504 Tests.keyed).pend = some p ∧ decode p.word = .error .roundIndexOutOfRange) ∧
      (Tests.inFlight 0x00000504 Tests.keyed).events = [] ∧
      ({ Tests.inFlight 0x00000504 Tests.keyed with events := [.complete, .rstLow] }).events = [.complete, .rstLow] ∧
      decode (0x00000204 : Word) = .ok (.roundf 2) := by
  exact ⟨⟨_, rfl, by decide⟩, rfl, rfl, ⟨_, rfl, by decide⟩, rfl, rfl, by decide⟩

theorem witness_StepTakesTheNextEvent :
    let s := { State.reset with events := [.host (Transaction.readReg .status)] }
    s.events = [.host (Transaction.readReg .status)] ∧ s.rstN = true ∧
      (s.hardReset false).events = [.host (Transaction.readReg .status)] ∧ (s.hardReset false).rstN = false := by
  decide

/-- A command in flight with a key loaded meets the invariant, and it has a next step. -/
theorem witness_EveryStepKeepsTheInvariant :
    (Tests.inFlight 0x00000009 State.reset).Inv ∧ (Tests.after (step (Tests.inFlight 0x00000009 State.reset))).isSome := by
  refine ⟨⟨by decide, by decide, ?_, by decide, by decide, by decide, by decide, by decide⟩, by decide +kernel⟩
  intro p hp
  exact (Option.some.inj hp).symm

theorem witness_EveryRunEndsIdle :
    (Tests.inFlight 0x00000000 State.reset).Inv ∧
      (∃ t, core.run ((Tests.inFlight 0x00000000 State.reset).events.length + 1) (Tests.inFlight 0x00000000 State.reset) =
        .next t) ∧
      (let s := { Tests.inFlight 0x00000000 State.reset with events := [.complete, .complete] }
       s.pend.isSome = true ∧ ∀ e ∈ s.events, e = .complete) ∧
      (let s := { State.reset with events := [.complete, .rstLow] }
       s.Inv ∧ s.status.busy = false ∧ s.events = [.complete, .rstLow]) ∧
      ∀ t, Event.host t ∉ ({ Tests.inFlight 0x00000000 State.reset with events := [.complete, .rstLow, .rstHigh] }).events := by
  refine ⟨⟨by decide, by decide, fun p hp => (Option.some.inj hp).symm, by decide, by decide, by decide, by decide,
    by decide⟩, ⟨_, rfl⟩, by decide, ?_, fun t h => ?_⟩
  · intro s
    exact ⟨⟨by decide, by decide, nofun, by decide, by decide, by decide, by decide, by decide⟩, rfl, rfl⟩
  · simp at h

/-- R248 on a queue with a reset after the last command completes: the run ends at the completion, with DONE = 1 and CMD as
issued, and the reset is not a part of it. -/
theorem test_final_before_reset :
    let s := { Tests.inFlight 0x00000003 State.reset with events := [.complete, .rstLow] }
    ∃ u, s.FinalAfter 1 u ∧ u.status.toWord = 0x00000002 ∧ u.cmd = 0x00000003 := by
  refine ⟨_, ⟨rfl, ⟨fun t (h : Event.host t ∈ [Event.rstLow]) => by simp at h, by decide⟩, fun m hm v hv hr => ?_⟩, by decide, by decide⟩
  obtain rfl : m = 0 := by omega
  cases hv
  exact absurd hr.2 (by decide)

theorem witness_CmdWriteIssues :
    State.reset.status.busy = false ∧ (Tests.inFlight 0x00000000 State.reset).status.busy = true ∧
      (Tests.inFlight 0x00000000 State.reset).pend.isSome := by decide

theorem witness_CtrlWriteSetsIrqEnableOrResets :
    (0x7FFFFFFF : Word).toNat < 2 ^ 31 ∧ 2 ^ 31 ≤ (0x80000000 : Word).toNat := by decide

theorem witness_RegisterReadsAnswerTheMap : Tests.keyed.status.busy = false := by decide

theorem witness_DataRegisterWritesStore : Tests.keyed.status.busy = false := by decide

theorem witness_ReadOnlyWritesAreIgnored : Tests.keyed.status.busy = false := by decide

/-- A busy state, a register in each list, an access of each size at the end of DMEM, and a refused transaction. -/
theorem witness_AccessesWhileBusy :
    let s := Tests.inFlight 0x00000000 State.reset
    s.status.busy = true ∧ Reg.cmd ∉ [Reg.id, Reg.version, Reg.ctrl, Reg.status] ∧ Reg.id ∉ [Reg.ctrl, Reg.status] ∧
      (4095 % (Access.read .one).size.bytes = 0 ∧ 4095 + (Access.read .one).size.bytes ≤ s.params.dmemBytes) ∧
      (4094 % (Access.write (.half 0)).size.bytes = 0 ∧
        4094 + (Access.write (.half 0)).size.bytes ≤ s.params.dmemBytes) ∧
      (4092 % (Access.read .four).size.bytes = 0 ∧ 4092 + (Access.read .four).size.bytes ≤ s.params.dmemBytes) ∧
      Tests.faultOf (hostStep { offset := 0x014, access := .write (.half 5) } s) = some (.busErr .registerAccess) := by
  decide

/-- Offsets on both sides of each edge: 0x74 and 0x78, 0x2C, the last bytes of DMEM and the next ones. -/
theorem witness_BuserrExactlyOnRefusedTransactions :
    (Tests.faultOf (hostStep { offset := 0x74, access := .read .four } State.reset) = none) ∧
      (Tests.faultOf (hostStep { offset := 0x78, access := .read .four } State.reset)).isSome ∧
      (Tests.faultOf (hostStep { offset := 0x2C, access := .read .four } State.reset)).isSome ∧
      (Tests.faultOf (hostStep { offset := 0x10FFC, access := .write (.word 0) } State.reset) = none) ∧
      (Tests.faultOf (hostStep { offset := 0x10FFE, access := .write (.word 0) } State.reset)).isSome ∧
      (Tests.faultOf (hostStep { offset := 0x20000, access := .read .one } State.reset) = some .outsideAperture) := by
  decide

/-- Each size at an edge, a misaligned access and one past the end. -/
theorem witness_DmemAccessesAreBigEndian :
    State.reset.status.busy = false ∧
      (4095 % (Data.byte 1).size.bytes = 0 ∧ 4095 + (Data.byte 1).size.bytes ≤ State.reset.params.dmemBytes) ∧
      (4094 % (Data.half 1).size.bytes = 0 ∧ 4094 + (Data.half 1).size.bytes ≤ State.reset.params.dmemBytes) ∧
      (4092 % (Data.word 1).size.bytes = 0 ∧ 4092 + (Data.word 1).size.bytes ≤ State.reset.params.dmemBytes) ∧
      (4092 % AccessSize.four.bytes = 0 ∧ 4092 + AccessSize.four.bytes ≤ State.reset.params.dmemBytes) ∧
      4093 % (Access.read .two).size.bytes ≠ 0 ∧
      State.reset.params.dmemBytes < 4096 + (Access.read .one).size.bytes := by decide

/-- The last block of DMEM. -/
theorem witness_WordReadsAnswerTheBlockWords :
    let s := Tests.mem [(4080, Tests.fb.toBytes)]
    s.status.busy = false ∧ 4080 % 4 = 0 ∧ 4080 + 16 ≤ s.params.dmemBytes ∧ s.dmem.Holds 4080 Tests.fb.toBytes :=
  ⟨by decide, by decide, by decide, Tests.holds_of (by decide)⟩

theorem witness_UnwrittenByteReadsAsAFreshDraw :
    State.reset.status.busy = false ∧ 4095 < State.reset.params.dmemBytes ∧ State.reset.dmem.get? 4095 = none := by
  decide

/-- Idle, and each memory command and another word in flight. -/
theorem witness_SoftResetKeepsDmemButTheAbandonedRegion :
    2 ^ 31 ≤ (0x80000000 : Word).toNat ∧ Tests.keyed.pend = none ∧
      ((Tests.inFlight 0x00000009 Tests.keyed).pend.map (·.word) = some 0x00000009) ∧
      ((Tests.inFlight 0x0000000A Tests.keyed).pend.map (·.word) = some 0x0000000A) ∧
      ((Tests.inFlight 0x0000000B Tests.keyed).pend.map (·.word) = some 0x0000000B) ∧
      ((Tests.inFlight 0x0000000C Tests.keyed).pend.map (·.word) = some 0x0000000C) ∧
      (0x00000109 : Word) ∉ [(0x00000009 : Word), 0x0000000A, 0x0000000B, 0x0000000C] := by decide

theorem witness_HardResetClearsEverything :
    ({ Tests.keyed with events := [.rstLow] }).events = (if false then Event.rstHigh else .rstLow) :: [] ∧
      ({ Tests.keyed with events := [.rstHigh] }).events = (if true then Event.rstHigh else .rstLow) :: [] ∧
      (let s := { Tests.keyed.hardReset false with events := [.host (Transaction.readReg .id)] }
       s.rstN = false ∧ s.events = [.host (Transaction.readReg .id)]) := by decide

/-- A key region that ends at the end of DMEM, and an empty one outside it (V-KS-12, V-KS-14). -/
theorem witness_KschedLoadsTheKeyRegisters :
    (let s := { State.reset with keyAddr := 4092, keyLen := 4 }
     Claims.Valid s s.operands.keyAddr s.operands.keyLen.toNat) ∧
      (let s := { State.reset with keyAddr := 4096 }
       Claims.Valid s s.operands.keyAddr s.operands.keyLen.toNat) :=
  ⟨show Tests.valid _ _ _ by decide, show Tests.valid _ _ _ by decide⟩

theorem witness_SubstAndRoundfWriteWout : Tests.keyed.operands.rkValid = true := by decide

theorem witness_RoundCommandsTransformTheBlock : Tests.keyed.operands.rkValid = true := by decide

theorem witness_BlockCommandsRunFiveRounds :
    (Tests.inFlight 0x00000007 Tests.keyed).operands.rkValid = true := by decide

theorem witness_EcbEncWritesTheCiphertext :
    let s := Tests.ecb Tests.hello
    let x := s.operands
    Claims.Valid s x.keyAddr x.keyLen.toNat ∧ Claims.Valid s x.srcAddr x.srcLen.toNat ∧
      Claims.Valid s x.dstAddr (16 * ((x.srcLen.toNat + 15) / 16)) ∧
      ¬ Claims.Overlap x.srcAddr x.srcLen.toNat x.dstAddr (16 * ((x.srcLen.toNat + 15) / 16)) :=
  ⟨show Tests.valid _ _ _ by decide, show Tests.valid _ _ _ by decide, show Tests.valid _ _ _ by decide,
    show ¬ Tests.overlap _ _ _ _ by decide⟩

theorem witness_EcbDecWritesThePlaintext :
    let s := Tests.ecb Tests.cipher
    let x := s.operands
    x.srcLen.toNat % 16 = 0 ∧ Claims.Valid s x.keyAddr x.keyLen.toNat ∧ Claims.Valid s x.srcAddr x.srcLen.toNat ∧
      Claims.Valid s x.dstAddr x.srcLen.toNat ∧
      ¬ Claims.Overlap x.srcAddr x.srcLen.toNat x.dstAddr x.srcLen.toNat :=
  ⟨by decide, show Tests.valid _ _ _ by decide, show Tests.valid _ _ _ by decide, show Tests.valid _ _ _ by decide,
    show ¬ Tests.overlap _ _ _ _ by decide⟩

theorem witness_HexEncWritesTheText :
    let s := Tests.hex [0x00, 0xFF, 0x0A]
    let x := s.operands
    Claims.Valid s x.srcAddr x.srcLen.toNat ∧ Claims.Valid s x.dstAddr (2 * x.srcLen.toNat) ∧
      ¬ Claims.Overlap x.srcAddr x.srcLen.toNat x.dstAddr (2 * x.srcLen.toNat) :=
  ⟨show Tests.valid _ _ _ by decide, show Tests.valid _ _ _ by decide, show ¬ Tests.overlap _ _ _ _ by decide⟩

theorem witness_HexDecWritesTheBytes :
    let c : List Byte := [0x30, 0x30, 0x66, 0x46]
    let s := Tests.hex c
    let x := s.operands
    x.srcLen.toNat % 2 = 0 ∧ Claims.Valid s x.srcAddr x.srcLen.toNat ∧ Claims.Valid s x.dstAddr (x.srcLen.toNat / 2) ∧
      ¬ Claims.Overlap x.srcAddr x.srcLen.toNat x.dstAddr (x.srcLen.toNat / 2) ∧ c.length = x.srcLen.toNat ∧
      s.dmem.Holds x.srcAddr.toNat c ∧ ∀ ch ∈ c, Claims.IsHex s.params.hexAcceptUpper ch :=
  ⟨by decide, show Tests.valid _ _ _ by decide, show Tests.valid _ _ _ by decide,
    show ¬ Tests.overlap _ _ _ _ by decide, by decide, Tests.holds_of (by decide), by unfold Claims.IsHex; decide⟩

theorem witness_KeyCommandsFailWithoutAKey :
    State.reset.operands.rkValid = false ∧ 5 ≤ (5 : BitVec 3).toNat := by decide

/-- One state for each clause: KSCHED past the end, ECB_ENC past the end and overlapping (V-ECB-20, V-ECB-16), HEX_ENC past
the end and overlapping (V-HEX-13, V-HEX-15). -/
theorem witness_RangeThenOverlapChecks :
    ¬ Tests.valid State.reset 4095 2 ∧
      ¬ (Tests.valid State.reset 0 0 ∧ Tests.valid State.reset 0 17 ∧ Tests.valid State.reset 4065 32) ∧
      ((Tests.valid State.reset 0 0 ∧ Tests.valid State.reset 0x10 15 ∧ Tests.valid State.reset 0x01 16) ∧
        Tests.overlap 0x10 15 0x01 16) ∧
      ¬ (Tests.valid State.reset 0 2049 ∧ Tests.valid State.reset 0x900 4098) ∧
      ((Tests.valid State.reset 0x800 2048 ∧ Tests.valid State.reset 0 4096) ∧ Tests.overlap 0x800 2048 0 4096) := by
  decide

/-- V-ECB-22, V-ECB-23 and V-ECB-24. -/
theorem witness_EcbDecChecksLengthFirst :
    15 % 16 ≠ 0 ∧
      (16 % 16 = 0 ∧ ¬ (Tests.valid State.reset 4095 2 ∧ Tests.valid State.reset 0 16 ∧ Tests.valid State.reset 0x40 16)) ∧
      (16 % 16 = 0 ∧ (Tests.valid State.reset 0 0 ∧ Tests.valid State.reset 0 16 ∧ Tests.valid State.reset 0 16) ∧
        Tests.overlap 0 16 0 16) := by decide

/-- V-HEX-16, a source past the end, V-HEX-17 and V-HEX-18. -/
theorem witness_HexDecChecksContentLast :
    3 % 2 ≠ 0 ∧
      (2 % 2 = 0 ∧ ¬ (Tests.valid State.reset 4095 2 ∧ Tests.valid State.reset 0 1)) ∧
      (4 % 2 = 0 ∧ (Tests.valid State.reset 0 4 ∧ Tests.valid State.reset 2 2) ∧ Tests.overlap 0 4 2 2) ∧
      (let c : List Byte := [0x30, 0x67, 0x30, 0x67]
       let s := { Tests.hex c with dstAddr := 0x04 }
       c.length % 2 = 0 ∧ (Tests.valid s 0 4 ∧ Tests.valid s 4 2) ∧ ¬ Tests.overlap 0 4 4 2 ∧
        s.dmem.Holds s.operands.srcAddr.toNat c ∧ ∃ ch ∈ c, ¬ Claims.IsHex s.params.hexAcceptUpper ch) :=
  ⟨by decide, by decide, by decide, by decide, by decide, by decide, Tests.holds_of (by decide),
    ⟨0x67, by decide, by unfold Claims.IsHex; decide⟩⟩

/-- An instruction of each list that completes. -/
theorem witness_frames :
    (Tests.after (exec (.rndEnc 0) Tests.keyed)).isSome ∧ Instr.rndEnc 0 ∉ [.ksched, .kclear, .ecbEnc, .ecbDec] ∧
      Instr.rndEnc 0 ∉ [.ecbEnc, .ecbDec, .hexEnc, .hexDec] ∧
      (Tests.after (exec .subst Tests.keyed)).isSome ∧ (∀ r, Instr.subst ≠ .rndEnc r ∧ Instr.subst ≠ .rndDec r) ∧
      Instr.subst ∉ [.blkEnc, .blkDec] ∧
      (Tests.after (exec .ksched Tests.keyed)).isSome ∧ (∀ r, Instr.ksched ≠ .roundf r) ∧ Instr.ksched ≠ .subst := by
  decide

theorem witness_NoCommandWritesHostOwnedState : ∃ t, exec .kclear Tests.keyed = .next t := ⟨_, rfl⟩

theorem witness_OnlyTheseCommandsWriteEachRegister : ∃ t, exec (.rndEnc 0) Tests.keyed = .next t := ⟨_, rfl⟩

theorem witness_MemoryCommandsWriteOnlyTheDestination :
    (Tests.after (exec .ecbEnc (Tests.ecb Tests.hello))).isSome ∧ (Tests.after (exec .ecbDec (Tests.ecb Tests.cipher))).isSome ∧
      (Tests.after (exec .hexEnc (Tests.hex Tests.key))).isSome ∧
      (Tests.after (exec .hexDec (Tests.hex [0x30, 0x30]))).isSome := by decide +kernel

/-- Two states with one command in flight that differ in every register that is no input of R73, in the live copies of
those PEND holds, and in ERR. -/
theorem witness_CommandsDependOnlyOnTheirInputs :
    let s := Tests.inFlight 0x00000005 Tests.keyed
    let s' := { s with
      win := 5, irqEn := true, srcAddr := 7, keyLen := 9, blk := Tests.fb, wout := 1, dstLen := 2, kfold := 3
      rk := RoundKeys.zero, status := { s.status with rkValid := false, err := true, errCode := .range } }
    (∃ p, s.pend = some p ∧ s'.pend = some p) ∧ s'.params = s.params ∧ s'.dmem = s.dmem ∧ s'.draws = s.draws ∧
      (∃ t, exec (.rndEnc 0) s = .next t) ∧ (∃ t, exec (.rndEnc 0) s' = .next t) ∧
      s'.blk ≠ s.blk ∧ s'.kfold ≠ s.kfold ∧ s'.rk ≠ s.rk ∧ s'.status.rkValid ≠ s.status.rkValid :=
  ⟨⟨_, rfl, rfl⟩, rfl, rfl, rfl, ⟨_, rfl⟩, ⟨_, rfl⟩, by decide, by decide, by decide, by decide⟩

theorem witness_SubstituteReplacesEachNibble : 7 < 8 := by decide

theorem witness_SboxIsABijection : ∃ w w' : Word, substitute w = substitute w' := ⟨0, 0, rfl⟩

/-- A clear bit, a zero nibble, and two keys that share rk32. -/
theorem witness_RoundFunctionProperties :
    let rk : DWord := 0xABCDEF000F0F0F0F
    (31 < 32 ∧ (rk.setWidth 32).getLsbD 31 = false) ∧ (7 < 8 ∧ (rk.setWidth 32).toNat / 16 ^ 7 % 16 = 0) ∧
      ((0x0F0F0F0F : DWord).setWidth 32 = rk.setWidth 32) := by decide

theorem witness_BlockTransformsAreInverse :
    Tests.keyed.status.rkValid = true ∧
      ((0x00000008 : Word), (0x00000007 : Word), blockDecrypt Tests.keyed.blk Tests.keyed.rk) ∈
        [((0x00000007 : Word), (0x00000008 : Word), blockEncrypt Tests.keyed.blk Tests.keyed.rk),
          (0x00000008, 0x00000007, blockDecrypt Tests.keyed.blk Tests.keyed.rk)] :=
  ⟨by decide, .tail _ (.head _)⟩

theorem witness_MirrorStatesStayMirrored :
    let st : Block := { a := 1, b := 2, c := 2, d := 1 }
    st.a = st.d ∧ st.b = st.c := by decide

/-- V-KEY-4: "abcde" and "Xbcde". -/
theorem witness_OnlyTheLastFourKeyBytesReachTheCipher :
    let key : List Byte := [0x61, 0x62, 0x63, 0x64, 0x65]
    let key' : List Byte := [0x58, 0x62, 0x63, 0x64, 0x65]
    key ≠ key' ∧ (keyFold key).toNat % 2 ^ 32 = (keyFold key').toNat % 2 ^ 32 := by decide

/-- V-ECB-5: chunk 0 and chunk 1 of 33 bytes are equal. -/
theorem witness_EqualChunksGiveEqualCiphertextBlocks :
    let p : List Byte := List.replicate 32 0 ++ [0x5A]
    0 < (p.length + 15) / 16 ∧ 1 < (p.length + 15) / 16 ∧ Claims.chunkBytes p 0 = Claims.chunkBytes p 1 := by decide

theorem witness_DepaddingStripsAllTrailingZeros :
    let out : List Byte := [0x41, 0x42, 0x00, 0x00]
    depadFrom out out.length ≤ 3 ∧ 3 < out.length ∧ depadFrom out out.length ≠ 0 := by decide

/-- P1's encryption and then P3's decryption, of the text "HELLO WORLD!!!!". -/
theorem witness_EcbEncThenEcbDecRestoresThePlaintext :
    let s := Tests.ecb Tests.hello
    ∃ t, exec .ecbEnc s = .next t ∧
      (let u := { t with srcAddr := 0x40, srcLen := t.dstLen, dstAddr := 0x80 }
       Tests.key.length = s.operands.keyLen.toNat ∧ s.dmem.Holds s.operands.keyAddr.toNat Tests.key ∧
        Tests.hello.length = s.operands.srcLen.toNat ∧ s.dmem.Holds s.operands.srcAddr.toNat Tests.hello ∧
        Tests.valid s s.operands.keyAddr 4 ∧ Tests.valid s s.operands.srcAddr 15 ∧ Tests.valid s s.operands.dstAddr 16 ∧
        ¬ Tests.overlap s.operands.srcAddr 15 s.operands.dstAddr 16 ∧
        ¬ Tests.overlap s.operands.keyAddr 4 s.operands.dstAddr 16 ∧
        u.params = s.params ∧ u.dmem = t.dmem ∧ u.operands.keyAddr = s.operands.keyAddr ∧
        u.operands.keyLen = s.operands.keyLen ∧ u.operands.srcAddr = s.operands.dstAddr ∧
        u.operands.srcLen = t.dstLen ∧ Tests.valid u u.operands.dstAddr 16 ∧
        ¬ Tests.overlap u.operands.srcAddr 16 u.operands.dstAddr 16) :=
  ⟨_, rfl, by decide, Tests.holds_of (by decide), by decide, Tests.holds_of (by decide), by decide, by decide, by decide,
    by decide, by decide, rfl, rfl, rfl, rfl, rfl, rfl, by decide, by decide⟩

theorem witness_HexRoundTrip : hexToBytes true [0x61, 0x42] = some [0xAB] := by decide

theorem witness_HexTextIsAcceptedExactlyWhenValid :
    hexToBytes false [0x61, 0x39] = some [0xA9] ∧ 0 < ([0xA9] : List Byte).length := by decide
end

/-! ## The address map and the host port, said once -/

namespace Sys2Proof.Machine

/-- Every register stands at a 4-aligned offset of R23, and 0x2C is not one. -/
theorem Reg.offset_mapped (r : Reg) : r.offset % 4 = 0 ∧ r.offset ≤ 0x74 ∧ r.offset ≠ 0x2C := by
  cases r with
  | rkLo i => revert i; decide
  | rkHi i => revert i; decide
  | _ => decide

/-- R23 leaves no 4-aligned offset up to 0x74 unmapped but 0x2C. -/
theorem exists_reg_offset {n : Nat} (h4 : n % 4 = 0) (hn : n ≤ 0x74) (h2C : n ≠ 0x2C) : ∃ r : Reg, r.offset = n := by
  have mapped : ∀ k < 30, k ≠ 11 → (regAt (4 * k)).isSome = true := by decide
  obtain ⟨r, hr⟩ := Option.isSome_iff_exists.mp (mapped (n / 4) (by omega) (by omega))
  exact ⟨r, (offset_of_regAt hr).trans (by omega)⟩

/-- Only a transaction in the form of R63 reaches a register. -/
theorem target_reg_inv {p : Params} {t : Transaction} {r : Reg} (h : target p t = .ok (.reg r)) :
    t.offset = r.offset ∧ t.access.size = .four := by
  simp only [target] at h
  split_ifs at h with _ h4
  · split at h
    · next r' hr =>
      cases h
      refine ⟨(offset_of_regAt hr).symm, ?_⟩
      cases hs : t.access.size <;> simp [hs, AccessSize.bytes] at h4 ⊢
    · cases h
  · cases h

/-- Only a transaction in the form of R65 reaches DMEM. -/
theorem target_dmem_inv {p : Params} {t : Transaction} {a : Nat} (h : target p t = .ok (.dmem a)) :
    t.offset = 0x10000 + a ∧ a % t.access.size.bytes = 0 ∧ a + t.access.size.bytes ≤ p.dmemBytes := by
  simp only [target] at h
  split_ifs at h with hreg _ hgap hwin hmod hend
  · split at h <;> cases h
  · obtain rfl := Target.dmem.inj (Except.ok.inj h)
    exact ⟨by omega, not_not.mp hmod, by omega⟩

@[simp] theorem hostStep_readReg (r : Reg) (s : State) :
    hostStep (Transaction.readReg r) s = .next (s.hostReadReg r) := by
  have h : target s.params (Transaction.readReg r) = .ok (.reg r) := target_reg s.params r (.read .four) rfl
  unfold hostStep
  rw [h]
  rfl

@[simp] theorem hostStep_writeReg (r : Reg) (v : Word) (s : State) :
    hostStep (Transaction.writeReg r v) s = .next (s.hostWriteReg r v) := by
  have h : target s.params (Transaction.writeReg r v) = .ok (.reg r) := target_reg s.params r (.write (.word v)) rfl
  unfold hostStep
  rw [h]
  rfl

/-- Everything a host transaction can answer when it answers a next state. -/
theorem hostStep_cases {x : Transaction} {s t : State} (h : hostStep x s = .next t) :
    (∃ r, t = s.hostReadReg r) ∨ (∃ r v, t = s.hostWriteReg r v) ∨ (∃ a size, t = s.hostReadDmem a size) ∨
      ∃ a d, a + d.size.bytes ≤ s.params.dmemBytes ∧ t = s.hostWriteDmem a d := by
  unfold hostStep at h
  split at h <;> cases h
  · exact .inl ⟨_, rfl⟩
  · exact .inr (.inl ⟨_, _, rfl⟩)
  · exact .inr (.inr (.inl ⟨_, _, rfl⟩))
  · next a d htarget haccess =>
    obtain ⟨_, _, hend⟩ := target_dmem_inv htarget
    rw [haccess] at hend
    exact .inr (.inr (.inr ⟨a, d, hend, rfl⟩))

theorem State.hostReadReg_of_idle {s : State} (hb : s.status.busy = false) (r : Reg) :
    s.hostReadReg r = s.respond (.read (.word (s.readReg r))) := by
  simp [State.hostReadReg, hb]

theorem State.hostReadReg_of_defined {r : Reg} (hr : r.readDefinedWhileBusy = true) (s : State) :
    s.hostReadReg r = s.respond (.read (.word (s.readReg r))) := by
  simp [State.hostReadReg, hr]

theorem State.hostWriteReg_of_idle {s : State} (hb : s.status.busy = false) (r : Reg) (v : Word) :
    s.hostWriteReg r v = (s.writeReg r v).respond .written := by
  simp [State.hostWriteReg, hb]

theorem State.hostWriteReg_of_busy {s : State} (hb : s.status.busy = true) (r : Reg) (v : Word) :
    s.hostWriteReg r v = (s.writeRegBusy r v).respond .written := by
  simp [State.hostWriteReg, hb]

/-- A CTRL write is the same whether or not CORE is busy (R240). -/
@[simp] theorem State.hostWriteReg_ctrl (s : State) (v : Word) :
    s.hostWriteReg .ctrl v = (s.writeCtrl v).respond .written := by
  cases hb : s.status.busy with
  | false => exact State.hostWriteReg_of_idle hb .ctrl v
  | true => exact State.hostWriteReg_of_busy hb .ctrl v

/-- A STATUS write is the same whether or not CORE is busy (R240). -/
@[simp] theorem State.hostWriteReg_status (s : State) (v : Word) :
    s.hostWriteReg .status v = (s.writeStatus v).respond .written := by
  cases hb : s.status.busy with
  | false => exact State.hostWriteReg_of_idle hb .status v
  | true => exact State.hostWriteReg_of_busy hb .status v

/-- Every write but one of CTRL or STATUS only sets OVF while BUSY = 1 (R240). -/
theorem State.writeRegBusy_of_ne {r : Reg} (hc : r ≠ .ctrl) (hs : r ≠ .status) (s : State) (v : Word) :
    s.writeRegBusy r v = s.overrun := by
  cases r with
  | ctrl => exact absurd rfl hc
  | status => exact absurd rfl hs
  | _ => rfl

@[simp] theorem Data.length_toBytes (d : Data) : d.toBytes.length = d.size.bytes := by
  cases d <;> rfl

end Sys2Proof.Machine

/-! ## The invariant, operation by operation

`State.DataInv` is what the effects of a command keep before its lifecycle writes; `State.Inv` then follows from the
completion. -/

namespace Sys2Proof.Machine

/-- The part of `State.Inv` about DMEM, ERR with ERRCODE, and the key registers. -/
structure State.DataInv (s : State) : Prop where
  dmem_wf : s.dmem.wf s.params.dmemBytes
  err_iff_code : s.status.err = false ↔ s.status.errCode = .noError
  key_valid : s.status.rkValid = true → s.rk = expand s.kfold
  key_clear : s.status.rkValid = false → s.kfold = 0 ∧ s.rk = RoundKeys.zero

theorem State.Inv.dataInv {s : State} (h : s.Inv) : s.DataInv :=
  ⟨h.dmem_wf, h.err_iff_code, h.key_valid, h.key_clear⟩

namespace State.DataInv

variable {s : State}

theorem withDraws (h : s.DataInv) (d : Nat) : ({ s with draws := d } : State).DataInv :=
  ⟨h.dmem_wf, h.err_iff_code, h.key_valid, h.key_clear⟩

theorem memRead (h : s.DataInv) (g : Region) : (s.memRead g).2.DataInv := h.withDraws _

theorem withBlk (h : s.DataInv) (b : Block) : (s.withBlk b).DataInv :=
  ⟨h.dmem_wf, h.err_iff_code, h.key_valid, h.key_clear⟩

theorem withWout (h : s.DataInv) (w : Word) : (s.withWout w).DataInv :=
  ⟨h.dmem_wf, h.err_iff_code, h.key_valid, h.key_clear⟩

theorem withDstLen (h : s.DataInv) (n : Nat) : (s.withDstLen n).DataInv :=
  ⟨h.dmem_wf, h.err_iff_code, h.key_valid, h.key_clear⟩

theorem memWrite (h : s.DataInv) {g : Region} (hg : g.valid s.params = true) {bs : List Byte}
    (hl : bs.length = g.len) : (s.memWrite g.addr bs).DataInv :=
  ⟨State.wf_memWrite h.dmem_wf hg hl, h.err_iff_code, h.key_valid, h.key_clear⟩

theorem loadKey (h : s.DataInv) (k : List Byte) : (s.loadKey (keyFold k) (keySchedule k)).DataInv :=
  ⟨h.dmem_wf, h.err_iff_code, fun _ => rfl, nofun⟩

theorem clearKey (h : s.DataInv) : s.clearKey.DataInv :=
  ⟨h.dmem_wf, h.err_iff_code, nofun, fun _ => ⟨rfl, rfl⟩⟩

/-- While CORE is idle and out of reset, nothing but the irq level is added to the data's invariant. -/
theorem inv_of_idle (h : s.DataInv) (hr : s.rstN = true) (hp : s.pend = none) (hb : s.status.busy = false)
    (hirq : s.irq = irqLevel s.irqEn s.status) : s.Inv where
  dmem_wf := h.dmem_wf
  busy_iff_pend := by simp [hp, hb]
  pend_sampled := by simp [hp]
  err_iff_code := h.err_iff_code
  irq_level := hirq
  key_valid := h.key_valid
  key_clear := h.key_clear
  in_reset := by simp [hr]

theorem complete (h : s.DataInv) (hr : s.rstN = true) : s.complete.Inv :=
  inv_of_idle (s := s.complete) ⟨h.dmem_wf, h.err_iff_code, h.key_valid, h.key_clear⟩ hr rfl rfl rfl

theorem failed (h : s.DataInv) (hr : s.rstN = true) {code : ErrCode} (hc : code ≠ .noError) : (s.failed code).Inv := by
  rw [← State.fail_eq_failed]
  have herr : (s.status.onFailure code).err = false ↔ (s.status.onFailure code).errCode = .noError := by
    simp [Status.onFailure, hc]
  exact complete (s := s.withStatus (s.status.onFailure code)) ⟨h.dmem_wf, herr, h.key_valid, h.key_clear⟩ hr

end State.DataInv

theorem State.IsFailureOf.inv {s t : State} (h : t.IsFailureOf s) (hs : s.DataInv) (hr : s.rstN = true) : t.Inv := by
  obtain ⟨code, d, hc, rfl⟩ := h
  exact (hs.withDraws d).failed hr hc

/-- A success keeps the invariant: its DMEM write lies in a region that passed the range check, and the key registers are
left alone, loaded with an expansion, or cleared. -/
theorem Succeeds.inv {i : Instr} {s t : State} (h : Succeeds i s t) (hs : s.DataInv) (hr : s.rstN = true) : t.Inv := by
  cases i with
  | nop => cases h; exact hs.complete hr
  | kclear => cases h; exact hs.clearKey.complete hr
  | subst => cases h; exact (hs.withWout _).complete hr
  | roundf r => obtain ⟨_, _, rfl⟩ := h; exact (hs.withWout _).complete hr
  | rndEnc r | rndDec r => obtain ⟨_, _, rfl⟩ := h; exact (hs.withBlk _).complete hr
  | blkEnc | blkDec => obtain ⟨_, rfl⟩ := h; exact (hs.withBlk _).complete hr
  | ksched => obtain ⟨_, rfl⟩ := h; exact ((hs.memRead _).loadKey _).complete hr
  | ecbEnc =>
    obtain ⟨⟨_, _, hdst, _⟩, rfl⟩ := h
    have hlen : (ecbEncrypt s.ecbText (keySchedule s.ecbKey)).length = paddedLen s.operands.src.len := by
      rw [length_ecbEncrypt, State.length_ecbText]
      rfl
    exact (((hs.withDraws s.ecbDraws).memWrite hdst hlen).withDstLen _).clearKey.complete hr
  | ecbDec =>
    obtain ⟨⟨h16, _, _, hdst, _⟩, rfl⟩ := h
    have hlen : (ecbBuffer s.ecbText (keySchedule s.ecbKey)).length = s.operands.src.len := by
      rw [length_ecbBuffer, State.length_ecbText]
      exact Nat.mul_div_cancel' (Nat.dvd_of_mod_eq_zero h16)
    exact (((hs.withDraws s.ecbDraws).memWrite hdst hlen).withDstLen _).clearKey.complete hr
  | hexEnc =>
    obtain ⟨⟨_, hdst, _⟩, rfl⟩ := h
    have hlen : (bytesToHex (s.memRead s.operands.src).1).length = 2 * s.operands.src.len := by simp
    exact (((hs.memRead _).memWrite hdst hlen).withDstLen _).complete hr
  | hexDec =>
    obtain ⟨⟨_, _, hdst, _⟩, out, _, hlen, rfl⟩ := h
    exact (((hs.memRead _).memWrite hdst hlen).withDstLen _).complete hr

theorem exec_inv {i : Instr} {s t : State} (hs : s.DataInv) (hr : s.rstN = true) (h : exec i s = .next t) : t.Inv :=
  (exec_cases h).elim (fun hf => hf.inv hs hr) fun hok => hok.inv hs hr

namespace State.Inv

variable {s : State}

/-- Nothing is in flight while `rst_n` is low. -/
theorem rstN_of_pend (h : s.Inv) {p : Pending} (hp : s.pend = some p) : s.rstN = true := by
  by_contra hr
  have hreset := h.in_reset (Bool.not_eq_true _ ▸ hr)
  rw [hreset] at hp
  cases hp

theorem pend_of_idle (h : s.Inv) (hb : s.status.busy = false) : s.pend = none := by
  simpa [hb] using h.busy_iff_pend.symm

theorem withEvents (h : s.Inv) (es : List Event) : ({ s with events := es } : State).Inv :=
  { h with
    in_reset := fun hr => by
      rw [h.in_reset hr]
      rfl }

/-- A response, with the draws it took, is no part of the invariant out of reset. -/
theorem withResponse (h : s.Inv) (hr : s.rstN = true) (d : Nat) (o : Option Response) :
    ({ s with draws := d, response := o } : State).Inv :=
  { h with in_reset := by simp [hr] }

/-- A STATUS write that keeps BUSY and RK_VALID, and ERR with ERRCODE, keeps the invariant: it recomputes irq. -/
theorem withStatus (h : s.Inv) (hr : s.rstN = true) {st : Status} (hb : st.busy = s.status.busy)
    (hk : st.rkValid = s.status.rkValid) (he : st.err = false ↔ st.errCode = .noError) : (s.withStatus st).Inv where
  dmem_wf := h.dmem_wf
  busy_iff_pend := hb.trans h.busy_iff_pend
  pend_sampled p hp := by
    rw [h.pend_sampled p hp]
    simp [State.sample, hk]
  err_iff_code := he
  irq_level := rfl
  key_valid hv := h.key_valid (hk ▸ hv)
  key_clear hv := h.key_clear (hk ▸ hv)
  in_reset := by simp [hr]

theorem overrun (h : s.Inv) (hr : s.rstN = true) : s.overrun.Inv := h.withStatus hr rfl rfl h.err_iff_code

theorem writeStatus (h : s.Inv) (hr : s.rstN = true) (v : Word) : (s.writeStatus v).Inv := by
  refine h.withStatus hr rfl rfl ?_
  simp only [Status.writeOneToClear]
  cases v.getLsbD 2 with
  | false => simpa using h.err_iff_code
  | true => simp

theorem withIrqEn (h : s.Inv) (hr : s.rstN = true) (en : Bool) : (s.withIrqEn en).Inv :=
  { h with irq_level := rfl, in_reset := by simp [hr] }

theorem issue (h : s.Inv) (hr : s.rstN = true) (w : Word) : (s.issue w).Inv :=
  { h with
    busy_iff_pend := rfl
    pend_sampled := fun p hp => (Option.some.inj hp).symm
    irq_level := rfl
    in_reset := by simp [hr] }

theorem softReset (h : s.Inv) (hr : s.rstN = true) : s.softReset.Inv := by
  have hwf : s.softResetDmem.wf s.params.dmemBytes := by
    unfold State.softResetDmem
    split
    · exact h.dmem_wf
    · exact Memory.wf_forget h.dmem_wf _ _
  exact State.DataInv.inv_of_idle (s := s.softReset) ⟨hwf, iff_of_true rfl rfl, nofun, fun _ => ⟨rfl, rfl⟩⟩ hr rfl rfl rfl

theorem writeCtrl (h : s.Inv) (hr : s.rstN = true) (v : Word) : (s.writeCtrl v).Inv := by
  unfold State.writeCtrl
  split
  · exact h.softReset hr
  · exact h.withIrqEn hr _

/-- A register that only a later issue samples can change while nothing is in flight. -/
theorem writeReg (h : s.Inv) (hr : s.rstN = true) (hb : s.status.busy = false) (r : Reg) (v : Word) :
    (s.writeReg r v).Inv := by
  have hp := h.pend_of_idle hb
  cases r with
  | ctrl => exact h.writeCtrl hr v
  | status => exact h.writeStatus hr v
  | cmd => exact h.issue hr v
  | id | version | dstLen | wout | kfoldLo | kfoldHi | rkLo i | rkHi i => exact h
  | srcAddr | srcLen | dstAddr | keyAddr | keyLen | blkA | blkB | blkC | blkD | win =>
    exact State.DataInv.inv_of_idle ⟨h.dmem_wf, h.err_iff_code, h.key_valid, h.key_clear⟩ hr hp hb h.irq_level

theorem writeRegBusy (h : s.Inv) (hr : s.rstN = true) (r : Reg) (v : Word) : (s.writeRegBusy r v).Inv := by
  by_cases hc : r = .ctrl
  · exact hc ▸ h.writeCtrl hr v
  · by_cases hs : r = .status
    · exact hs ▸ h.writeStatus hr v
    · exact State.writeRegBusy_of_ne hc hs s v ▸ h.overrun hr

end State.Inv

@[simp] theorem State.rstN_writeCtrl (s : State) (v : Word) : (s.writeCtrl v).rstN = s.rstN := by
  unfold State.writeCtrl
  split <;> rfl

theorem State.rstN_writeReg (s : State) (r : Reg) (v : Word) : (s.writeReg r v).rstN = s.rstN := by
  cases r with
  | ctrl => exact s.rstN_writeCtrl v
  | _ => rfl

theorem State.rstN_writeRegBusy (s : State) (r : Reg) (v : Word) : (s.writeRegBusy r v).rstN = s.rstN := by
  cases r with
  | ctrl => exact s.rstN_writeCtrl v
  | _ => rfl

theorem hostStep_inv {x : Transaction} {s t : State} (hs : s.Inv) (hr : s.rstN = true) (h : hostStep x s = .next t) :
    t.Inv := by
  rcases hostStep_cases h with ⟨r, rfl⟩ | ⟨r, v, rfl⟩ | ⟨a, size, rfl⟩ | ⟨a, d, hend, rfl⟩
  · unfold State.hostReadReg
    split <;> exact hs.withResponse hr _ _
  · cases hb : s.status.busy with
    | false =>
      rw [State.hostWriteReg_of_idle hb]
      exact (hs.writeReg hr hb r v).withResponse ((s.rstN_writeReg r v).trans hr) _ _
    | true =>
      rw [State.hostWriteReg_of_busy hb]
      exact (hs.writeRegBusy hr r v).withResponse ((s.rstN_writeRegBusy r v).trans hr) _ _
  · unfold State.hostReadDmem
    split <;> exact hs.withResponse hr _ _
  · unfold State.hostWriteDmem
    split
    · exact (hs.overrun hr).withResponse hr _ _
    · next hb =>
      have hvalid : Region.valid s.params { addr := a, len := d.size.bytes } = true :=
        (Region.valid_iff _ _).mpr (.inr hend)
      have hwritten := hs.dataInv.memWrite hvalid d.length_toBytes
      have hb : s.status.busy = false := Bool.not_eq_true _ ▸ hb
      exact (hwritten.inv_of_idle hr (hs.pend_of_idle hb) hb hs.irq_level).withResponse hr _ _

theorem coreStep_inv {s t : State} (hs : s.Inv) (h : coreStep s = .next t) : t.Inv := by
  cases hp : s.pend with
  | none =>
    rw [coreStep_of_idle hp] at h
    cases h
    exact hs
  | some p =>
    have hr := hs.rstN_of_pend hp
    rw [coreStep_of_pend hp] at h
    cases hd : decode p.word with
    | ok i =>
      rw [completeWord_of_ok hd] at h
      exact exec_inv hs.dataInv hr h
    | error e =>
      rw [completeWord_of_error hd] at h
      cases h
      exact hs.dataInv.failed hr (by decide)

/-- Both edges of `rst_n` meet the invariant from any state. -/
theorem State.hardReset_inv (s : State) (level : Bool) : (s.hardReset level).Inv where
  dmem_wf := Memory.wf_reset _
  busy_iff_pend := rfl
  pend_sampled := nofun
  err_iff_code := iff_of_true rfl rfl
  irq_level := rfl
  key_valid := nofun
  key_clear _ := ⟨rfl, rfl⟩
  in_reset hl := by
    have hl : level = false := hl
    rw [hl]
    rfl

theorem eventStep_inv {e : Event} {s t : State} (hs : s.Inv) (h : eventStep e s = .next t) : t.Inv := by
  cases e with
  | host x =>
    simp only [eventStep] at h
    split_ifs at h with hr
    exact hostStep_inv hs hr h
  | complete => exact coreStep_inv hs h
  | rstLow => cases h; exact s.hardReset_inv false
  | rstHigh => cases h; exact s.hardReset_inv true

theorem step_inv {s t : State} (hs : s.Inv) (h : step s = .next t) : t.Inv := by
  cases he : s.events with
  | nil => exact coreStep_inv hs (step_nil he ▸ h)
  | cons e rest => exact eventStep_inv (hs.withEvents rest) (step_cons he ▸ h)

end Sys2Proof.Machine

section

open Sys2Proof Sys2Proof.Machine

/-- Settles O7: by the event at the head of the queue, and within a completion by the inversion of `exec`. -/
theorem everyStepKeepsTheInvariant : Obligations.EveryStepKeepsTheInvariant := by
  unfold Obligations.EveryStepKeepsTheInvariant
  exact fun _ _ hs h => step_inv hs h

end


/-! ## Register reads and writes by field -/

namespace Sys2Proof.Machine

theorem toNat_append_bit {n : Nat} (x : BitVec n) (b : Bool) : (x ++ bit b).toNat = 2 * x.toNat + b.toNat := by
  have hb : (bit b).toNat < 2 ^ 1 := (bit b).isLt
  rw [BitVec.toNat_append, ← Nat.shiftLeft_add_eq_or_of_lt hb, Nat.shiftLeft_eq]
  simp [bit, Nat.mul_comm]

/-- STATUS by the weights of its fields (R27). -/
theorem Status.toNat_toWord (st : Status) :
    st.toWord.toNat = st.busy.toNat + 2 * st.done.toNat + 4 * st.err.toNat + 8 * st.rkValid.toNat +
      16 * st.ovf.toNat + 256 * st.errCode.toBits.toNat := by
  have hcode : (0#20 ++ st.errCode.toBits ++ 0#3).toNat = 8 * st.errCode.toBits.toNat := by
    cases st.errCode <;> rfl
  simp only [Status.toWord, toNat_append_bit, hcode]
  omega

theorem toNat_ctrlWord (en : Bool) : (ctrlWord en).toNat = en.toNat := by
  cases en <;> rfl

/-- Bit j of a word, as the spec's arithmetic has it. -/
theorem getLsbD_eq_decide (v : Word) (j : Nat) : v.getLsbD j = decide (v.toNat / 2 ^ j % 2 = 1) := by
  rw [← BitVec.testBit_toNat, Nat.testBit_eq_decide_div_mod_eq]

theorem getLsbD_31 (v : Word) : v.getLsbD 31 = decide (2 ^ 31 ≤ v.toNat) :=
  (BitVec.msb_eq_getLsbD_last v).symm.trans (BitVec.msb_eq_decide v)

theorem State.writeCtrl_of_lt {v : Word} (hv : v.toNat < 2 ^ 31) (s : State) :
    s.writeCtrl v = s.withIrqEn (decide (v.toNat % 2 = 1)) := by
  rw [State.writeCtrl, getLsbD_31, getLsbD_eq_decide, decide_eq_false (Nat.not_le.mpr hv)]
  simp

theorem State.writeCtrl_of_le {v : Word} (hv : 2 ^ 31 ≤ v.toNat) (s : State) : s.writeCtrl v = s.softReset := by
  simp only [State.writeCtrl, getLsbD_31, hv, decide_true, if_true]

end Sys2Proof.Machine

section

open Sys2Proof Sys2Proof.Machine

/-- Settles O11: the read by the weights of the fields, the write by the bits of the word. -/
theorem statusReadsAndClearsByField : Obligations.StatusReadsAndClearsByField := by
  unfold Obligations.StatusReadsAndClearsByField
  refine ⟨rfl, fun s v => ⟨⟨s.status.toWord, ?_, ?_⟩, s.status.writeOneToClear v, ?_, rfl, rfl, ?_, ?_, ?_, ?_⟩⟩
  · rw [hostStep_readReg, State.hostReadReg_of_defined rfl]
    rfl
  · rw [Status.toNat_toWord]
    cases s.status.errCode <;> rfl
  · rw [hostStep_writeReg, State.hostWriteReg_status]
    rfl
  all_goals simp only [Status.writeOneToClear, getLsbD_eq_decide]
  · cases s.status.done <;> simp
  · cases s.status.err <;> simp
  · simp
  · cases s.status.ovf <;> simp

/-- Settles O12: both halves of a CTRL write are split at bit 31. -/
theorem ctrlWriteSetsIrqEnableOrResets : Obligations.CtrlWriteSetsIrqEnableOrResets := by
  unfold Obligations.CtrlWriteSetsIrqEnableOrResets
  refine ⟨rfl, fun s v => ⟨⟨ctrlWord s.irqEn, ?_, toNat_ctrlWord _⟩, fun hv => ?_, fun hv => ⟨_, ?_, rfl, rfl, rfl⟩⟩⟩
  · rw [hostStep_readReg, State.hostReadReg_of_defined rfl]
    rfl
  · rw [hostStep_writeReg, State.hostWriteReg_ctrl, State.writeCtrl_of_lt hv]
    rfl
  · rw [hostStep_writeReg, State.hostWriteReg_ctrl, State.writeCtrl_of_le hv]
    rfl

end

/-! ## Which transactions stop -/

namespace Sys2Proof.Machine

/-- The address map admits the form of R63 at an offset of R23 and the form of R65 within DMEM, and nothing else. -/
theorem target_ok_iff (p : Params) (t : Transaction) :
    (∃ g, target p t = .ok g) ↔
      (t.access.size = .four ∧ t.offset % 4 = 0 ∧ t.offset ≤ 0x74 ∧ t.offset ≠ 0x2C) ∨
        (0x10000 ≤ t.offset ∧ (t.offset - 0x10000) % t.access.size.bytes = 0 ∧
          t.offset - 0x10000 + t.access.size.bytes ≤ p.dmemBytes) := by
  obtain ⟨n, k⟩ := t
  constructor
  · rintro ⟨r | a, h⟩
    · obtain ⟨hoff, hsize⟩ := target_reg_inv h
      exact .inl ⟨hsize, hoff ▸ r.offset_mapped⟩
    · obtain ⟨hoff, hmod, hend⟩ := target_dmem_inv h
      obtain rfl : n = 0x10000 + a := hoff
      exact .inr (by simpa using ⟨hmod, hend⟩)
  · rintro (⟨hsize, h4, hn, h2C⟩ | ⟨hlow, hmod, hend⟩)
    · obtain ⟨r, rfl⟩ := exists_reg_offset h4 hn h2C
      exact ⟨_, target_reg p r k hsize⟩
    · obtain ⟨a, rfl⟩ := Nat.exists_eq_add_of_le hlow
      simp only [Nat.add_sub_cancel_left] at hmod hend
      exact ⟨_, target_dmem p a k hmod hend⟩

theorem hostStep_fault_iff (t : Transaction) (s : State) :
    (∃ f, hostStep t s = .fault f) ↔ ¬ ∃ g, target s.params t = .ok g := by
  cases h : target s.params t with
  | error f => simp [hostStep_of_error h]
  | ok g =>
    obtain ⟨n, k⟩ := t
    cases g <;> cases k <;> simp [hostStep, h]

end Sys2Proof.Machine

section

open Sys2Proof Sys2Proof.Machine

/-- Settles O18: a fault is exactly what the address map refuses. -/
theorem buserrExactlyOnRefusedTransactions : Obligations.BuserrExactlyOnRefusedTransactions := by
  unfold Obligations.BuserrExactlyOnRefusedTransactions
  intro s t
  rw [hostStep_fault_iff, target_ok_iff]

end

/-! ## Decoding determines the word, and the soft reset of a command in flight -/

namespace Sys2Proof

/-- A command word is its three fields (R80). -/
theorem word_eq_fields (w : Word) : w = (rsvField w ++ ridxField w ++ opcField w : BitVec 32) := by
  have h : (rsvField w ++ ridxField w ++ opcField w : BitVec (21 + 3 + 8)) = w.extractLsb' 0 (21 + 3 + 8) := by
    rw [rsvField, ridxField, opcField, BitVec.extractLsb'_append_extractLsb'_eq_extractLsb' (by rfl),
      BitVec.extractLsb'_append_extractLsb'_eq_extractLsb' (by rfl)]
  exact (h.trans BitVec.extractLsb'_eq_self).symm

theorem encode_eq_of_fields {i : Instr} {w : Word} (hrsv : rsvField w = 0) (hridx : ridxField w = i.ridx)
    (hopc : (opcField w).toNat = i.opcode.toNat) : encode i = w := by
  rw [word_eq_fields w, hrsv, hridx, BitVec.eq_of_toNat_eq hopc]
  rfl

theorem encode_of_decodePlain {i j : Instr} {w : Word} (h : decodePlain i w = .ok j) (hrsv : rsvField w = 0)
    (hopc : (opcField w).toNat = i.opcode.toNat) (hi : i.ridx = 0) : encode j = w := by
  unfold decodePlain at h
  split_ifs at h with hridx
  exact Except.ok.inj h ▸ encode_eq_of_fields hrsv (hridx.trans hi.symm) hopc

theorem encode_of_decodeIndexed {f : BitVec 3 → Instr} {j : Instr} {w : Word} (h : decodeIndexed f w = .ok j)
    (hrsv : rsvField w = 0) (hopc : (opcField w).toNat = (f (ridxField w)).opcode.toNat)
    (hf : (f (ridxField w)).ridx = ridxField w) : encode j = w := by
  unfold decodeIndexed at h
  split_ifs at h
  exact Except.ok.inj h ▸ encode_eq_of_fields hrsv hf.symm hopc

/-- A word that decodes is the encoding of its command. -/
theorem encode_of_decode {w : Word} {i : Instr} (h : decode w = .ok i) : encode i = w := by
  unfold decode at h
  split_ifs at h with hrsv
  have hrsv := not_not.mp hrsv
  split at h
  case h_1 hopc | h_2 hopc | h_3 hopc | h_4 hopc | h_8 hopc | h_9 hopc | h_10 hopc | h_11 hopc | h_12 hopc | h_13 hopc =>
    exact encode_of_decodePlain h hrsv hopc rfl
  case h_5 hopc | h_6 hopc | h_7 hopc => exact encode_of_decodeIndexed h hrsv hopc rfl
  case h_14 => cases h

end Sys2Proof

namespace Sys2Proof.Machine

theorem State.abandonedRegion_of_ok {s : State} {p : Pending} {i : Instr} (hp : s.pend = some p)
    (hd : decode p.word = .ok i) : s.abandonedRegion = (outlenOf i p.inputs.src.len).map p.inputs.dst := by
  simp [State.abandonedRegion, hp, hd]

/-- Only the words of the four memory commands have a destination region. -/
theorem State.abandonedRegion_eq_none {s : State} {p : Pending} (hp : s.pend = some p)
    (hw : p.word ∉ [0x00000009, 0x0000000A, 0x0000000B, 0x0000000C]) : s.abandonedRegion = none := by
  cases hd : decode p.word with
  | error e => simp [State.abandonedRegion, hp, hd]
  | ok i =>
    rw [← encode_of_decode hd] at hw
    have hlen : outlenOf i p.inputs.src.len = none := by
      cases i with
      | ecbEnc | ecbDec | hexEnc | hexDec => exact absurd (by decide) hw
      | _ => rfl
    rw [State.abandonedRegion_of_ok hp hd, hlen]
    rfl

theorem State.softResetDmem_of_none {s : State} (h : s.abandonedRegion = none) : s.softResetDmem = s.dmem := by
  simp [State.softResetDmem, h]

/-- A soft reset spoils the destination of the memory command in flight and no other byte. -/
theorem State.get?_softResetDmem {s : State} {p : Pending} {i : Instr} {n : Nat} (hp : s.pend = some p)
    (hd : decode p.word = .ok i) (hn : outlenOf i p.inputs.srcLen.toNat = some n) (x : Nat) :
    s.softResetDmem.get? x =
      if p.inputs.dstAddr.toNat ≤ x ∧ x < p.inputs.dstAddr.toNat + n then none else s.dmem.get? x := by
  have hg : s.abandonedRegion = some (p.inputs.dst n) :=
    (State.abandonedRegion_of_ok hp hd).trans (congrArg (Option.map p.inputs.dst) hn)
  simp only [State.softResetDmem, hg]
  exact Memory.get?_forget _ _ _ _

end Sys2Proof.Machine

section

open Sys2Proof Sys2Proof.Machine

/-- Settles O22: the soft reset's DMEM, by the word in PEND. -/
theorem softResetKeepsDmemButTheAbandonedRegion : Obligations.SoftResetKeepsDmemButTheAbandonedRegion := by
  unfold Obligations.SoftResetKeepsDmemButTheAbandonedRegion
  intro s v hv
  refine ⟨s.softResetDmem, ?_, fun hp => ?_, fun p hp => ⟨fun hw x => ?_, fun hw x => ?_, fun hw x => ?_,
    fun hw x => ?_, fun hw => ?_⟩⟩
  · rw [hostStep_writeReg, State.hostWriteReg_ctrl, State.writeCtrl_of_le hv]
    rfl
  · exact State.softResetDmem_of_none (by simp [State.abandonedRegion, hp])
  · exact State.get?_softResetDmem (i := .ecbEnc) hp (hw ▸ rfl) rfl x
  · exact State.get?_softResetDmem (i := .ecbDec) hp (hw ▸ rfl) rfl x
  · exact State.get?_softResetDmem (i := .hexEnc) hp (hw ▸ rfl) rfl x
  · exact State.get?_softResetDmem (i := .hexDec) hp (hw ▸ rfl) rfl x
  · exact State.softResetDmem_of_none (State.abandonedRegion_eq_none hp hw)

end

/-! ## What a completed command leaves, over all instructions -/

namespace Sys2Proof.Machine

/-- The state s with what a command can write beside the lifecycle fields (R82) taken from t. -/
def State.takeResults (s t : State) : State :=
  { s with
    status := { s.status with rkValid := t.status.rkValid }
    dstLen := t.dstLen
    blk := t.blk
    wout := t.wout
    kfold := t.kfold
    rk := t.rk
    dmem := t.dmem
    draws := t.draws }

/-- The form of a success: results and lifecycle writes, and nothing else. -/
theorem Succeeds.eq_succeeded {i : Instr} {s t : State} (h : Succeeds i s t) : t = (s.takeResults t).succeeded := by
  cases i with
  | nop | kclear | subst => cases h; exact State.complete_eq_succeeded _
  | roundf r | rndEnc r | rndDec r => obtain ⟨_, _, rfl⟩ := h; exact State.complete_eq_succeeded _
  | ksched | blkEnc | blkDec | ecbEnc | ecbDec | hexEnc =>
    obtain ⟨_, rfl⟩ := h
    exact State.complete_eq_succeeded _
  | hexDec => obtain ⟨_, _, _, _, rfl⟩ := h; exact State.complete_eq_succeeded _

/-- Which results each command leaves as they were, on success. -/
theorem Succeeds.frame {i : Instr} {s t : State} (h : Succeeds i s t) :
    (i ∉ [.ksched, .kclear, .ecbEnc, .ecbDec] →
      t.kfold = s.kfold ∧ t.rk = s.rk ∧ t.status.rkValid = s.status.rkValid) ∧
    (i ∉ [.ecbEnc, .ecbDec, .hexEnc, .hexDec] → t.dstLen = s.dstLen ∧ t.dmem = s.dmem) ∧
    ((∀ r, i ≠ .rndEnc r ∧ i ≠ .rndDec r) → i ∉ [.blkEnc, .blkDec] → t.blk = s.blk) ∧
    ((∀ r, i ≠ .roundf r) → i ≠ .subst → t.wout = s.wout) := by
  cases i with
  | nop | kclear | subst => cases h; simp [Status.onCompletion]
  | roundf r | rndEnc r | rndDec r => obtain ⟨_, _, rfl⟩ := h; simp [Status.onCompletion]
  | ksched | blkEnc | blkDec | ecbEnc | ecbDec | hexEnc => obtain ⟨_, rfl⟩ := h; simp [Status.onCompletion]
  | hexDec => obtain ⟨_, _, _, _, rfl⟩ := h; simp [Status.onCompletion]

/-! The commands that end in `State.perform` and have no equation in `Laws/Exec.lean` yet. -/

theorem exec_nop (s : State) : exec .nop s = s.perform [] fun _ => s.complete := rfl

theorem exec_kclear (s : State) : exec .kclear s = s.perform [] fun _ => s.clearKey.complete := rfl

theorem exec_subst (s : State) :
    exec .subst s = s.perform [] fun _ => (s.withWout (substitute s.operands.win)).complete := rfl

theorem exec_blkEnc (s : State) : exec .blkEnc s = s.perform [(s.operands.rkValid, .noKey)] fun _ =>
    (s.withBlk (blockEncrypt s.operands.blk s.operands.rk)).complete := rfl

theorem exec_blkDec (s : State) : exec .blkDec s = s.perform [(s.operands.rkValid, .noKey)] fun _ =>
    (s.withBlk (blockDecrypt s.operands.blk s.operands.rk)).complete := rfl

section

variable {o : Host.Outcome State Fault Refusal} {s : State} {checks : List (Bool × ErrCode)} {effects : Unit → State}

theorem next_of_eq_perform (h : o = s.perform checks effects) : ∃ t, o = .next t :=
  h ▸ s.perform_next checks effects

theorem next_effects_of_eq_perform (h : o = s.perform checks effects) (hc : ∀ c ∈ checks, c.1 = true) :
    o = .next (effects ()) :=
  h.trans (State.perform_of_pass hc effects)

end

theorem exec_next (i : Instr) (s : State) : ∃ t, exec i s = .next t := by
  cases i with
  | nop => exact next_of_eq_perform (exec_nop s)
  | ksched => exact next_of_eq_perform (execKsched_eq s)
  | kclear => exact next_of_eq_perform (exec_kclear s)
  | subst => exact next_of_eq_perform (exec_subst s)
  | roundf r | rndEnc r | rndDec r => exact s.withRoundKey_next r _
  | blkEnc => exact next_of_eq_perform (exec_blkEnc s)
  | blkDec => exact next_of_eq_perform (exec_blkDec s)
  | ecbEnc => exact next_of_eq_perform (execEcbEnc_eq s)
  | ecbDec => exact next_of_eq_perform (execEcbDec_eq s)
  | hexEnc => exact next_of_eq_perform (execHexEnc_eq s)
  | hexDec => exact next_of_eq_perform (execHexDec_eq s)

/-- The inversion read backwards: a command whose checks pass answers its success. -/
theorem exec_of_succeeds {i : Instr} {s t : State} (h : Succeeds i s t) : exec i s = .next t := by
  cases i with
  | nop => cases h; exact next_effects_of_eq_perform (exec_nop s) (by simp)
  | kclear => cases h; exact next_effects_of_eq_perform (exec_kclear s) (by simp)
  | subst => cases h; exact next_effects_of_eq_perform (exec_subst s) (by simp)
  | roundf r | rndEnc r | rndDec r =>
    obtain ⟨hr, hv, rfl⟩ := h
    refine (State.withRoundKey_eq s r _).trans ?_
    rw [dif_pos hr, if_pos hv]
  | ksched => obtain ⟨hc, rfl⟩ := h; exact next_effects_of_eq_perform (execKsched_eq s) (by simpa using hc)
  | blkEnc => obtain ⟨hc, rfl⟩ := h; exact next_effects_of_eq_perform (exec_blkEnc s) (by simpa using hc)
  | blkDec => obtain ⟨hc, rfl⟩ := h; exact next_effects_of_eq_perform (exec_blkDec s) (by simpa using hc)
  | ecbEnc => obtain ⟨hc, rfl⟩ := h; exact next_effects_of_eq_perform (execEcbEnc_eq s) (by simpa using hc)
  | ecbDec => obtain ⟨hc, rfl⟩ := h; exact next_effects_of_eq_perform (execEcbDec_eq s) (by simpa using hc)
  | hexEnc => obtain ⟨hc, rfl⟩ := h; exact next_effects_of_eq_perform (execHexEnc_eq s) (by simpa using hc)
  | hexDec =>
    obtain ⟨hc, out, ho, _, rfl⟩ := h
    refine (next_effects_of_eq_perform (execHexDec_eq s) (by simpa using hc)).trans ?_
    rw [ho]

/-- The state with ERR and ERRCODE as given. -/
def State.withErr (s : State) (e : Bool) (c : ErrCode) : State :=
  { s with status := { s.status with err := e, errCode := c } }

/-- No check and no effect of a success reads ERR or ERRCODE, or writes them. -/
theorem Succeeds.withErr {i : Instr} {s t : State} (h : Succeeds i s t) (e : Bool) (c : ErrCode) :
    Succeeds i (s.withErr e c) (t.withErr e c) := by
  cases i with
  | nop | kclear | subst => cases h; rfl
  | roundf r | rndEnc r | rndDec r => obtain ⟨hr, hv, rfl⟩ := h; exact ⟨hr, hv, rfl⟩
  | blkEnc | blkDec | ksched | ecbEnc | ecbDec | hexEnc => obtain ⟨hc, rfl⟩ := h; exact ⟨hc, rfl⟩
  | hexDec => obtain ⟨hc, out, ho, hl, rfl⟩ := h; exact ⟨hc, out, ho, hl, rfl⟩

end Sys2Proof.Machine

section

open Sys2Proof Sys2Proof.Machine

/-- Settles O38: a failure is of R203's form, and a success is one from any other ERR and ERRCODE as well. -/
theorem failureIsAtomic : Obligations.FailureIsAtomic := by
  unfold Obligations.FailureIsAtomic
  intro i s
  obtain ⟨t, ht⟩ := exec_next i s
  refine ⟨t, ht, ?_⟩
  rcases exec_cases ht with hf | hs
  · obtain ⟨code, d, hc, rfl⟩ := hf
    exact ⟨rfl, rfl, rfl, rfl, .inl ⟨code, d, hc, rfl⟩⟩
  · have hsame : ∀ e c, exec i (s.withErr e c) = .next (t.withErr e c) := fun e c => exec_of_succeeds (hs.withErr e c)
    have hform := hs.eq_succeeded
    exact ⟨hform ▸ rfl, hform ▸ rfl, hform ▸ rfl, hform ▸ rfl, .inr hsame⟩

/-- Settles O39: neither a failure nor the results of a success touch these fields. -/
theorem noCommandWritesHostOwnedState : Obligations.NoCommandWritesHostOwnedState := by
  unfold Obligations.NoCommandWritesHostOwnedState
  intro i s t h
  rcases exec_cases h with ⟨code, d, _, rfl⟩ | hs
  · exact ⟨rfl, rfl, rfl, rfl, rfl, rfl, rfl, rfl, rfl, rfl, rfl, rfl, rfl⟩
  · rw [hs.eq_succeeded]
    exact ⟨rfl, rfl, rfl, rfl, rfl, rfl, rfl, rfl, rfl, rfl, rfl, rfl, rfl⟩

/-- Settles O40: a failure writes no result, and a success is framed by its command. -/
theorem onlyTheseCommandsWriteEachRegister : Obligations.OnlyTheseCommandsWriteEachRegister := by
  unfold Obligations.OnlyTheseCommandsWriteEachRegister
  intro i s t h
  rcases exec_cases h with ⟨code, d, _, rfl⟩ | hs
  · exact ⟨fun _ => ⟨rfl, rfl, rfl⟩, fun _ => ⟨rfl, rfl⟩, fun _ _ => rfl, fun _ _ => rfl⟩
  · exact hs.frame

end


/-! ## The reset state, the constants, and the register map -/

namespace Sys2Proof.Machine

theorem State.reset_inv : State.reset.Inv :=
  State.DataInv.inv_of_idle ⟨Memory.wf_reset _, iff_of_true rfl rfl, nofun, fun _ => ⟨rfl, rfl⟩⟩ rfl rfl rfl rfl

/-- What every reset leaves: the registers, PEND and irq are those of `State.reset`. -/
def State.HasResetRegisters (t : State) : Prop :=
  t = { State.reset with
    params := t.params, rstN := t.rstN, dmem := t.dmem, draws := t.draws, events := t.events, response := t.response }

theorem State.hasResetRegisters_of_mem {s t : State}
    (h : t ∈ [State.reset, s.hardReset true, s.hardReset false, s.softReset]) : t.HasResetRegisters := by
  simp only [List.mem_cons, List.not_mem_nil, or_false] at h
  rcases h with rfl | rfl | rfl | rfl <;> rfl

theorem State.HasResetRegisters.readReg {t : State} (h : t.HasResetRegisters) (r : Reg) :
    t.readReg r = State.reset.readReg r := by
  rw [h]
  cases r <;> rfl

/-- ID and VERSION are the only registers that do not reset to 0 (R46). -/
theorem State.readReg_reset {r : Reg} (hid : r ≠ .id) (hversion : r ≠ .version) : State.reset.readReg r = 0 := by
  cases r with
  | id => exact absurd rfl hid
  | version => exact absurd rfl hversion
  | rkLo i => revert i; decide
  | rkHi i => revert i; decide
  | _ => rfl

/-- The registers of R34 to R42, from CMD to RK4_HI, in the order of their offsets. -/
def Reg.cmdToRk4 : List Reg :=
  [.cmd, .srcAddr, .srcLen, .dstAddr, .dstLen, .keyAddr, .keyLen, .blkA, .blkB, .blkC, .blkD, .win, .wout, .kfoldLo,
    .kfoldHi, .rkLo 0, .rkHi 0, .rkLo 1, .rkHi 1, .rkLo 2, .rkHi 2, .rkLo 3, .rkHi 3, .rkLo 4, .rkHi 4]

/-- The RW data registers (R35, R36, R38 to R40). -/
def Reg.rwData : List Reg := [.srcAddr, .srcLen, .dstAddr, .keyAddr, .keyLen, .blkA, .blkB, .blkC, .blkD, .win]

/-- The read-only registers (R43). -/
def Reg.readOnly : List Reg :=
  [.id, .version, .dstLen, .wout, .kfoldLo, .kfoldHi, .rkLo 0, .rkHi 0, .rkLo 1, .rkHi 1, .rkLo 2, .rkHi 2, .rkLo 3,
    .rkHi 3, .rkLo 4, .rkHi 4]

theorem State.writeReg_readOnly {r : Reg} (hr : r ∈ Reg.readOnly) (s : State) (v : Word) : s.writeReg r v = s := by
  cases r with
  | id | version | dstLen | wout | kfoldLo | kfoldHi | rkLo i | rkHi i => rfl
  | _ => simp [Reg.readOnly] at hr

theorem hostStep_readReg_of_idle {s : State} (hb : s.status.busy = false) (r : Reg) :
    hostStep { offset := r.offset, access := .read .four } s =
      .next { s with response := some (.read (.word (s.readReg r))) } :=
  (hostStep_readReg r s).trans (congrArg _ (State.hostReadReg_of_idle hb r))

theorem hostStep_writeReg_of_idle {s : State} (hb : s.status.busy = false) (r : Reg) (v : Word) :
    hostStep { offset := r.offset, access := .write (.word v) } s =
      .next { s.writeReg r v with response := some .written } :=
  (hostStep_writeReg r v s).trans (congrArg _ (State.hostWriteReg_of_idle hb r v))

end Sys2Proof.Machine

section

open Sys2Proof Sys2Proof.Machine

/-- Settles O8: the reset state is idle, out of reset, with irq low and the key registers clear. -/
theorem resetMeetsTheInvariant : Obligations.ResetMeetsTheInvariant := State.reset_inv

/-- Settles O13: both constants are among the registers whose reads R240 defines. -/
theorem idAndVersionNeverChange : Obligations.IdAndVersionNeverChange := by
  unfold Obligations.IdAndVersionNeverChange
  intro s
  refine ⟨?_, ?_, fun t _ => ⟨rfl, rfl⟩⟩
  · exact (hostStep_readReg .id s).trans (congrArg _ (State.hostReadReg_of_defined rfl s))
  · exact (hostStep_readReg .version s).trans (congrArg _ (State.hostReadReg_of_defined rfl s))

/-- Settles O14: the printed list is the register map from CMD on. -/
theorem registerReadsAnswerTheMap : Obligations.RegisterReadsAnswerTheMap := by
  unfold Obligations.RegisterReadsAnswerTheMap
  intro s hb
  have hmap : ∀ q ∈ Reg.cmdToRk4.map fun r => (r.offset, s.readReg r),
      hostStep { offset := q.1, access := .read .four } s = .next { s with response := some (.read (.word q.2)) } :=
    List.forall_mem_map.mpr fun r _ => hostStep_readReg_of_idle hb r
  exact hmap

/-- Settles O15: the printed list is the RW data registers. -/
theorem dataRegisterWritesStore : Obligations.DataRegisterWritesStore := by
  unfold Obligations.DataRegisterWritesStore
  intro s v hb
  have hmap : ∀ q ∈ Reg.rwData.map fun r => (r.offset, s.writeReg r v),
      hostStep { offset := q.1, access := .write (.word v) } s = .next { q.2 with response := some .written } :=
    List.forall_mem_map.mpr fun r _ => hostStep_writeReg_of_idle hb r v
  exact hmap

/-- Settles O16: the printed offsets are those of the read-only registers. -/
theorem readOnlyWritesAreIgnored : Obligations.ReadOnlyWritesAreIgnored := by
  unfold Obligations.ReadOnlyWritesAreIgnored
  intro s v hb
  have hmap : ∀ n ∈ Reg.readOnly.map Reg.offset,
      hostStep { offset := n, access := .write (.word v) } s = .next { s with response := some .written } :=
    List.forall_mem_map.mpr fun r hr => by
      rw [hostStep_writeReg_of_idle hb, State.writeReg_readOnly hr]
  exact hmap

/-- Settles O24: every reset leaves the registers of `State.reset`. -/
theorem resetValuesOfEveryRegister : Obligations.ResetValuesOfEveryRegister := by
  unfold Obligations.ResetValuesOfEveryRegister
  intro s t ht
  have hreset := State.hasResetRegisters_of_mem ht
  refine ⟨fun r => ?_, ?_⟩
  · rw [hreset.readReg]
    cases r with
    | id | version => rfl
    | _ => exact State.readReg_reset nofun nofun
  · rw [hreset]
    exact ⟨rfl, rfl, rfl, rfl, rfl, rfl⟩

end


/-! ## DMEM accesses of the host port -/

namespace Sys2Proof.Machine

/-- A region that holds a list holds each slice of it, where the slice stands. -/
theorem Memory.Holds.slice {m : Memory} {a : Nat} {bs : List Byte} (h : m.Holds a bs) (k n : Nat) :
    m.Holds (a + k) ((bs.drop k).take n) := by
  intro j hj
  simp only [List.length_take, List.length_drop] at hj
  rw [List.getElem?_take_of_lt (by omega), List.getElem?_drop, Nat.add_assoc]
  exact h (k + j) (by omega)

/-- A big-endian byte string as a number (R11). -/
theorem toNat_append_byte {n : Nat} (x : BitVec n) (b : Byte) : (x ++ b).toNat = 256 * x.toNat + b.toNat := by
  rw [BitVec.toNat_append, ← Nat.shiftLeft_add_eq_or_of_lt b.isLt, Nat.shiftLeft_eq, Nat.mul_comm]

theorem toNat_be32 (b0 b1 b2 b3 : Byte) :
    (be32 b0 b1 b2 b3).toNat = 256 * (256 * (256 * b0.toNat + b1.toNat) + b2.toNat) + b3.toNat := by
  simp only [be32, toNat_append_byte]

/-- The bytes of a word read back as the word (R11). -/
theorem be32_bytesBe32 (w : Word) :
    be32 (w.extractLsb' 24 8) (w.extractLsb' 16 8) (w.extractLsb' 8 8) (w.extractLsb' 0 8) = w := by
  refine BitVec.eq_of_toNat_eq ?_
  simp only [toNat_be32, BitVec.extractLsb'_toNat, Nat.shiftRight_eq_div_pow]
  omega

section

variable {s : State} {a : Nat}

/-- A DMEM read while BUSY = 0 in the form of R65. -/
theorem hostStep_readDmem_of_idle (hb : s.status.busy = false) {size : AccessSize} (hmod : a % size.bytes = 0)
    (hend : a + size.bytes ≤ s.params.dmemBytes) :
    hostStep (Transaction.dmem a (.read size)) s =
      .next { s with
        draws := (s.dmem.readBytes size.bytes a s.draws).2
        response := some (.read (Data.ofBytes size (s.dmem.readBytes size.bytes a s.draws).1)) } := by
  have htarget : target s.params (Transaction.dmem a (.read size)) = .ok (.dmem a) :=
    target_dmem s.params a (.read size) hmod hend
  unfold hostStep
  rw [htarget]
  simp only [Transaction.dmem, State.hostReadDmem, hb, Bool.false_eq_true, if_false]
  rfl

/-- A DMEM write while BUSY = 0 in the form of R65. -/
theorem hostStep_writeDmem_of_idle (hb : s.status.busy = false) {d : Data} (hmod : a % d.size.bytes = 0)
    (hend : a + d.size.bytes ≤ s.params.dmemBytes) :
    hostStep (Transaction.dmem a (.write d)) s =
      .next { s with dmem := s.dmem.writeBytes a d.toBytes, response := some .written } := by
  have htarget : target s.params (Transaction.dmem a (.write d)) = .ok (.dmem a) :=
    target_dmem s.params a (.write d) hmod hend
  unfold hostStep
  rw [htarget]
  simp only [Transaction.dmem, State.hostWriteDmem, hb, Bool.false_eq_true, if_false]
  rfl

/-- The bytes a DMEM read while BUSY = 0 answers are a possible reading of DMEM (R66). -/
theorem exists_readDmem_of_idle (hb : s.status.busy = false) {size : AccessSize} (hmod : a % size.bytes = 0)
    (hend : a + size.bytes ≤ s.params.dmemBytes) :
    ∃ bs n, bs.length = size.bytes ∧ s.dmem.Reads a bs ∧ s.draws ≤ n ∧
      hostStep (Transaction.dmem a (.read size)) s =
        .next { s with draws := n, response := some (.read (Data.ofBytes size bs)) } :=
  ⟨_, _, s.dmem.length_readBytes _ _ _, s.dmem.reads_readBytes _ _ _, s.dmem.le_draws_readBytes _ _ _,
    hostStep_readDmem_of_idle hb hmod hend⟩

/-- A DMEM read while BUSY = 0 of bytes that are written answers them and takes no draw. -/
theorem hostStep_readDmem_of_holds (hb : s.status.busy = false) {size : AccessSize} {bs : List Byte}
    (hlen : bs.length = size.bytes) (hmod : a % size.bytes = 0) (hend : a + size.bytes ≤ s.params.dmemBytes)
    (hholds : s.dmem.Holds a bs) :
    hostStep (Transaction.dmem a (.read size)) s =
      .next { s with response := some (.read (Data.ofBytes size bs)) } := by
  rw [hostStep_readDmem_of_idle hb hmod hend, ← hlen, Memory.readBytes_of_holds hholds]

/-- A DMEM access that is misaligned or ends past `DMEM_BYTES` stops, whatever its address. -/
theorem hostStep_dmem_fault {k : Access} (h : a % k.size.bytes ≠ 0 ∨ s.params.dmemBytes < a + k.size.bytes) :
    ∃ f, hostStep (Transaction.dmem a k) s = .fault f := by
  rw [hostStep_fault_iff, target_ok_iff]
  simp only [Transaction.dmem, Nat.add_sub_cancel_left]
  omega

end

/-- A block's four words are its slices of four bytes (R68). -/
theorem Block.slice_toBytes (b : Block) {q : Nat × Word} (hq : q ∈ [(0, b.a), (1, b.b), (2, b.c), (3, b.d)]) :
    q.1 < 4 ∧ (b.toBytes.drop (4 * q.1)).take 4 = bytesBe32 q.2 := by
  simp only [List.mem_cons, List.not_mem_nil, or_false] at hq
  rcases hq with rfl | rfl | rfl | rfl <;> exact ⟨by simp, rfl⟩

end Sys2Proof.Machine

section

open Sys2Proof Sys2Proof.Machine

/-- Settles O19: a write leaves its datum's bytes, a read answers those it found, and the address map stops the rest. -/
theorem dmemAccessesAreBigEndian : Obligations.DmemAccessesAreBigEndian := by
  unfold Obligations.DmemAccessesAreBigEndian
  intro s a hb
  refine ⟨fun d hmod hend => ⟨_, hostStep_writeDmem_of_idle hb hmod hend, ?_, ?_⟩, fun size hmod hend => ?_,
    fun k hk => hostStep_dmem_fault hk⟩
  · simpa using s.dmem.sameOutside_writeBytes a d.toBytes
  · have hbyte := s.dmem.holds_writeBytes a d.toBytes
    cases d with
    | byte v => exact hbyte 0 (Nat.lt_add_one 0)
    | half v =>
      have hbyte : ∀ j < 2, _ := hbyte
      exact ⟨hbyte 0 (by decide), hbyte 1 (by decide)⟩
    | word v =>
      have hbyte : ∀ j < 4, _ := hbyte
      exact ⟨hbyte 0 (by decide), hbyte 1 (by decide), hbyte 2 (by decide), hbyte 3 (by decide)⟩
  · obtain ⟨bs, n, hlen, hreads, hn, hstep⟩ := exists_readDmem_of_idle hb hmod hend
    refine ⟨bs, n, _, hlen, hreads, hn, hstep, ?_⟩
    cases size with
    | one =>
      obtain ⟨b0, rfl⟩ := List.length_eq_one_iff.mp hlen
      rfl
    | two =>
      obtain ⟨b0, b1, rfl⟩ := List.length_eq_two.mp hlen
      exact toNat_append_byte b0 b1
    | four =>
      obtain ⟨b0, b1, b2, b3, rfl⟩ := List.length_eq_four.mp hlen
      exact toNat_be32 b0 b1 b2 b3

/-- Settles O20: each word of the block is a slice of its bytes, and the read answers that slice. -/
theorem wordReadsAnswerTheBlockWords : Obligations.WordReadsAnswerTheBlockWords := by
  unfold Obligations.WordReadsAnswerTheBlockWords
  intro s p b hb hp hend hblock q hq
  obtain ⟨hlt, hslice⟩ := b.slice_toBytes hq
  have hword : s.dmem.Holds (p + 4 * q.1) (bytesBe32 q.2) := hslice ▸ hblock.slice (4 * q.1) 4
  have hfirst : s.dmem.Holds (p + 4 * q.1) [q.2.extractLsb' 24 8] := hword.slice 0 1
  constructor
  · rw [hostStep_readDmem_of_holds hb rfl (show _ % 4 = 0 by omega) (show _ + 4 ≤ _ by omega) hword]
    exact congrArg (fun w => Host.Outcome.next { s with response := some (.read (.word w)) }) (be32_bytesBe32 q.2)
  · exact hostStep_readDmem_of_holds hb rfl (Nat.mod_one _) (show _ + 1 ≤ _ by omega) hfirst

/-- Settles O21: a read of one unlisted byte takes the next draw. -/
theorem unwrittenByteReadsAsAFreshDraw : Obligations.UnwrittenByteReadsAsAFreshDraw := by
  unfold Obligations.UnwrittenByteReadsAsAFreshDraw
  intro s a hb ha hnone
  have hread : s.dmem.readBytes 1 a s.draws = ([Config.freeByte s.draws], s.draws + 1) := by
    simp [Memory.readBytes, Memory.readByte, hnone]
  have hstep := hostStep_readDmem_of_idle (size := .one) hb (Nat.mod_one a) ha
  rwa [show AccessSize.one.bytes = 1 from rfl, hread] at hstep

end


/-! ## The memory commands: what they write, and where -/

namespace Sys2Proof.Machine

/-- The claims' chunk is the model's (R150). -/
theorem chunkBytes_eq_chunk (p : List Byte) (j : Nat) : Claims.chunkBytes p j = chunk p j := by
  refine List.ext_getElem? fun i => ?_
  by_cases hi : i < 16
  · rw [getElem?_chunk p j hi]
    simp [Claims.chunkBytes, hi]
  · rw [List.getElem?_eq_none (by simp [Claims.chunkBytes]; omega), List.getElem?_eq_none (by simp; omega)]

/-- Piece j of a list made of 16-byte pieces. -/
theorem slice_flatMap_blocks (f : Nat → Block) {m j : Nat} (hj : j < m) :
    (((List.range m).flatMap fun j => (f j).toBytes).drop (16 * j)).take 16 = (f j).toBytes := by
  have hlen := length_flatMap_blocks f m
  refine List.ext_getElem? fun i => ?_
  by_cases hi : i < 16
  · rw [List.getElem?_take_of_lt hi, List.getElem?_drop, getElem?_flatMap_blocks f m hj hi]
  · rw [List.getElem?_eq_none (by simp; omega), List.getElem?_eq_none (by simp; omega)]

/-- Block j of the ciphertext is the encryption of chunk j (R151). -/
theorem slice_ecbEncrypt (p : List Byte) (k : RoundKeys) {j : Nat} (hj : j < (p.length + 15) / 16) :
    ((ecbEncrypt p k).drop (16 * j)).take 16 = (blockEncrypt (Block.ofBytes (Claims.chunkBytes p j)) k).toBytes := by
  rw [chunkBytes_eq_chunk]
  exact slice_flatMap_blocks (fun j => blockEncrypt (Block.ofBytes (chunk p j)) k) hj

/-- Block j of the decrypted buffer is the decryption of block j (R152). -/
theorem slice_ecbBuffer (c : List Byte) (k : RoundKeys) {j : Nat} (hj : j < c.length / 16) :
    ((ecbBuffer c k).drop (16 * j)).take 16 = (blockDecrypt (Block.ofBytes (Claims.chunkBytes c j)) k).toBytes := by
  rw [chunkBytes_eq_chunk]
  exact slice_flatMap_blocks (fun j => blockDecrypt (Block.ofBytes (chunk c j)) k) hj

/-- The strip reads no byte at or past the length it starts from. -/
theorem depadFrom_append (out tail : List Byte) {t : Nat} (ht : t ≤ out.length) :
    depadFrom (out ++ tail) t = depadFrom out t := by
  induction t with
  | zero => rfl
  | succ t ih => rw [depadFrom, depadFrom, List.getD_append _ _ _ _ ht, ih (by omega)]

/-- The strip of R152 leaves the length of the list without its trailing zeros. -/
theorem depadFrom_length (out : List Byte) : depadFrom out out.length = (Claims.strip out).length := by
  show _ = (out.rdropWhile fun b => b == 0).length
  induction out using List.reverseRecOn with
  | nil => rfl
  | append_singleton out b ih =>
    rw [List.length_append, List.length_singleton, depadFrom, depadFrom_append _ _ (le_refl _), ih]
    by_cases hb : b = 0
    · rw [List.rdropWhile_concat_pos _ _ _ (by simpa using hb), if_pos (by simpa using hb)]
    · rw [List.rdropWhile_concat_neg _ _ _ (by simpa using hb), if_neg (by simpa using hb), List.length_append,
        List.length_singleton]

/-- The character of a nibble, by arithmetic (R170). -/
theorem hexChar_eq_charValue (v : BitVec 4) : hexChar v = BitVec.ofNat 8 (Claims.charValue v.toNat) := by
  revert v
  decide

/-- Characters 2j and 2j + 1 of an encoded text are those of the high and the low nibble of byte j (R171). -/
theorem getElem?_bytesToHex_charValue (b : List Byte) {j : Nat} (hj : j < b.length) :
    (bytesToHex b)[2 * j]? = some (BitVec.ofNat 8 (Claims.charValue ((b.getD j 0).toNat / 16))) ∧
      (bytesToHex b)[2 * j + 1]? = some (BitVec.ofNat 8 (Claims.charValue ((b.getD j 0).toNat % 16))) := by
  have hhigh : ((b.getD j 0).extractLsb' 4 4).toNat = (b.getD j 0).toNat / 16 := by
    have := (b.getD j 0).isLt
    rw [BitVec.extractLsb'_toNat, Nat.shiftRight_eq_div_pow]
    omega
  have hlow : ((b.getD j 0).extractLsb' 0 4).toNat = (b.getD j 0).toNat % 16 := by
    rw [BitVec.extractLsb'_toNat, Nat.shiftRight_zero]
  obtain ⟨h0, h1⟩ := getElem?_bytesToHex b hj
  rw [h0, h1, hexChar_eq_charValue, hexChar_eq_charValue, hhigh, hlow]
  exact ⟨rfl, rfl⟩

/-! The lengths of what a memory command writes: outlen of R97. -/

theorem State.length_ecbCiphertext (s : State) :
    (ecbEncrypt s.ecbText (keySchedule s.ecbKey)).length = paddedLen s.operands.srcLen.toNat := by
  rw [length_ecbEncrypt, State.length_ecbText]

theorem State.length_ecbPlaintext {s : State} (h16 : s.operands.srcLen.toNat % 16 = 0) :
    (ecbBuffer s.ecbText (keySchedule s.ecbKey)).length = s.operands.srcLen.toNat := by
  rw [length_ecbBuffer, State.length_ecbText]
  omega

theorem State.length_hexText (s : State) :
    (bytesToHex (s.memRead s.operands.src).1).length = 2 * s.operands.srcLen.toNat := by
  rw [length_bytesToHex, State.length_memRead]
  rfl

/-- A failure leaves DMEM as it was. -/
theorem State.IsFailureOf.dmem {s t : State} (h : t.IsFailureOf s) : t.dmem = s.dmem := by
  obtain ⟨code, d, _, rfl⟩ := h
  rfl

/-- A success of a memory command writes within its destination region (R67, R97). -/
theorem Succeeds.sameOutside {i : Instr} {s t : State} (h : Succeeds i s t) {n : Nat}
    (hn : outlenOf i s.operands.srcLen.toNat = some n) : s.dmem.SameOutside t.dmem s.operands.dstAddr.toNat n := by
  have hwrite : ∀ bs : List Byte, bs.length = n → t.dmem = s.dmem.writeBytes s.operands.dstAddr.toNat bs →
      s.dmem.SameOutside t.dmem s.operands.dstAddr.toNat n := by
    rintro bs rfl ht
    exact ht ▸ s.dmem.sameOutside_writeBytes _ bs
  cases i with
  | ecbEnc =>
    obtain ⟨_, rfl⟩ := h
    exact hwrite _ (s.length_ecbCiphertext.trans (Option.some.inj hn)) rfl
  | ecbDec =>
    obtain ⟨⟨h16, _⟩, rfl⟩ := h
    exact hwrite _ ((State.length_ecbPlaintext h16).trans (Option.some.inj hn)) rfl
  | hexEnc =>
    obtain ⟨_, rfl⟩ := h
    exact hwrite _ (s.length_hexText.trans (Option.some.inj hn)) rfl
  | hexDec =>
    obtain ⟨_, out, _, hlen, rfl⟩ := h
    exact hwrite _ (hlen.trans (Option.some.inj hn)) rfl
  | _ => cases hn

theorem exec_sameOutside {i : Instr} {s t : State} (h : exec i s = .next t) {n : Nat}
    (hn : outlenOf i s.operands.srcLen.toNat = some n) : s.dmem.SameOutside t.dmem s.operands.dstAddr.toNat n :=
  (exec_cases h).elim (fun hf x _ => congrArg (·.get? x) hf.dmem) fun hs => hs.sameOutside hn

/-! The claims' terms as the checks of R95 and R98. -/

theorem valid_region_iff {s : State} {a : Word} {l : Nat} :
    Region.valid s.params { addr := a.toNat, len := l } = true ↔ Claims.Valid s a l :=
  Region.valid_iff _ _

theorem overlaps_region_eq_false_iff {a1 a2 : Word} {l1 l2 : Nat} :
    Region.overlaps { addr := a1.toNat, len := l1 } { addr := a2.toNat, len := l2 } = false ↔
      ¬ Claims.Overlap a1 l1 a2 l2 :=
  (Bool.not_eq_true _).symm.to_iff.trans (not_congr (Region.overlaps_iff _ _))

end Sys2Proof.Machine

section

open Sys2Proof Sys2Proof.Machine

/-- Settles O30: the ciphertext stands at the destination, and block j of it is a slice. -/
theorem ecbEncWritesTheCiphertext : Obligations.EcbEncWritesTheCiphertext := by
  unfold Obligations.EcbEncWritesTheCiphertext
  intro s x n outlen hkey hsrc hdst hover
  have hlen : (ecbEncrypt s.ecbText (keySchedule s.ecbKey)).length = outlen := s.length_ecbCiphertext
  have hexec := exec_of_succeeds (i := .ecbEnc) (s := s) ⟨⟨valid_region_iff.mpr hkey, valid_region_iff.mpr hsrc,
    valid_region_iff.mpr hdst, overlaps_region_eq_false_iff.mpr hover⟩, rfl⟩
  rw [State.complete_eq_succeeded] at hexec
  refine ⟨s.ecbKey, s.ecbText, _, _, s.length_ecbKey, s.reads_ecbKey, s.length_ecbText, s.reads_ecbText,
    s.le_ecbDraws, hexec, hlen ▸ s.dmem.sameOutside_writeBytes _ _, fun j hj => ?_⟩
  have hj : j < (s.ecbText.length + 15) / 16 := by rwa [s.length_ecbText]
  exact slice_ecbEncrypt _ _ hj ▸ (s.dmem.holds_writeBytes _ _).slice (16 * j) 16

/-- Settles O31: the decrypted buffer stands at the destination, and DST_LEN is the length of its strip. -/
theorem ecbDecWritesThePlaintext : Obligations.EcbDecWritesThePlaintext := by
  unfold Obligations.EcbDecWritesThePlaintext
  intro s x n h16 hkey hsrc hdst hover
  have hlen : (ecbBuffer s.ecbText (keySchedule s.ecbKey)).length = n := State.length_ecbPlaintext h16
  have hexec := exec_of_succeeds (i := .ecbDec) (s := s) ⟨⟨h16, valid_region_iff.mpr hkey, valid_region_iff.mpr hsrc,
    valid_region_iff.mpr hdst, overlaps_region_eq_false_iff.mpr hover⟩, rfl⟩
  have hstrip : depadFrom (ecbBuffer s.ecbText (keySchedule s.ecbKey)) s.ecbText.length =
      (Claims.strip (ecbBuffer s.ecbText (keySchedule s.ecbKey))).length := by
    rw [s.length_ecbText, ← State.length_ecbPlaintext h16, depadFrom_length]
  rw [State.complete_eq_succeeded, hstrip] at hexec
  refine ⟨s.ecbKey, s.ecbText, _, _, _, s.length_ecbKey, s.reads_ecbKey, s.length_ecbText, s.reads_ecbText, hlen,
    s.le_ecbDraws, hexec, hlen ▸ s.dmem.sameOutside_writeBytes _ _, s.dmem.holds_writeBytes _ _, fun j hj => ?_⟩
  exact slice_ecbBuffer _ _ (by rwa [s.length_ecbText])

/-- Settles O32: the encoded text stands at the destination, two characters for each byte. -/
theorem hexEncWritesTheText : Obligations.HexEncWritesTheText := by
  unfold Obligations.HexEncWritesTheText
  intro s x n hsrc hdst hover
  have hn : (s.memRead x.src).1.length = n := s.length_memRead _
  have hlen : (bytesToHex (s.memRead x.src).1).length = 2 * n := s.length_hexText
  have hexec := exec_of_succeeds (i := .hexEnc) (s := s) ⟨⟨valid_region_iff.mpr hsrc, valid_region_iff.mpr hdst,
    overlaps_region_eq_false_iff.mpr hover⟩, rfl⟩
  rw [State.complete_eq_succeeded] at hexec
  refine ⟨_, _, _, hn, s.reads_memRead x.src, s.dmem.le_draws_readBytes _ _ _, hexec,
    hlen ▸ s.dmem.sameOutside_writeBytes _ _, fun j hj => ?_⟩
  have hholds := s.dmem.holds_writeBytes x.dstAddr.toNat (bytesToHex (s.memRead x.src).1)
  obtain ⟨h0, h1⟩ := getElem?_bytesToHex_charValue (s.memRead x.src).1 (hn.symm ▸ hj)
  exact ⟨(hholds (2 * j) (by omega)).trans h0, (hholds (2 * j + 1) (by omega)).trans h1⟩

/-- Settles O41: a failure leaves DMEM, and a success writes outlen bytes at the destination. -/
theorem memoryCommandsWriteOnlyTheDestination : Obligations.MemoryCommandsWriteOnlyTheDestination := by
  unfold Obligations.MemoryCommandsWriteOnlyTheDestination
  exact fun s t => ⟨fun h => exec_sameOutside h rfl, fun h => exec_sameOutside h rfl, fun h => exec_sameOutside h rfl,
    fun h => exec_sameOutside h rfl⟩

end


/-! ## A command's result depends on its inputs alone (R73, R94)

`State.SameResults s s' t t'` relates what two runs, from s to t and from s' to t', leave in the fields a command writes:
each operation of a command keeps it, so every command does. -/

namespace Sys2Proof.Machine

/-- Two runs leave the value of a field as it was in both, or make it equal in both. -/
def KeptOrEqual {α : Type} (old old' new new' : α) : Prop := (new = old ∧ new' = old') ∨ new' = new

theorem KeptOrEqual.kept {α : Type} (old old' : α) : KeptOrEqual old old' old old' := .inl ⟨rfl, rfl⟩

theorem KeptOrEqual.equal {α : Type} (old old' new : α) : KeptOrEqual old old' new new := .inr rfl

/-- What a command computes with is the same in both states: its operands, the parameters, DMEM and the draws. -/
structure State.SameInputs (s s' : State) : Prop where
  operands : s'.operands = s.operands
  params : s'.params = s.params
  dmem : s'.dmem = s.dmem
  draws : s'.draws = s.draws

/-- The runs from s to t and from s' to t' have the same DMEM and draws, and each result of a command is kept in both or
equal in both. -/
structure State.SameResults (s s' t t' : State) : Prop where
  dmem : t'.dmem = t.dmem
  draws : t'.draws = t.draws
  blk : KeptOrEqual s.blk s'.blk t.blk t'.blk
  wout : KeptOrEqual s.wout s'.wout t.wout t'.wout
  dstLen : KeptOrEqual s.dstLen s'.dstLen t.dstLen t'.dstLen
  kfold : KeptOrEqual s.kfold s'.kfold t.kfold t'.kfold
  rk : KeptOrEqual s.rk s'.rk t.rk t'.rk
  rkValid : KeptOrEqual s.status.rkValid s'.status.rkValid t.status.rkValid t'.status.rkValid
  error : KeptOrEqual (s.status.err, s.status.errCode) (s'.status.err, s'.status.errCode)
    (t.status.err, t.status.errCode) (t'.status.err, t'.status.errCode)

namespace State.SameResults

variable {s s' t t' : State}

theorem withBlk (h : s.SameResults s' t t') (b : Block) : s.SameResults s' (t.withBlk b) (t'.withBlk b) :=
  { h with blk := .equal _ _ b }

theorem withWout (h : s.SameResults s' t t') (w : Word) : s.SameResults s' (t.withWout w) (t'.withWout w) :=
  { h with wout := .equal _ _ w }

theorem withDstLen (h : s.SameResults s' t t') (n : Nat) : s.SameResults s' (t.withDstLen n) (t'.withDstLen n) :=
  { h with dstLen := .equal _ _ _ }

theorem memWrite (h : s.SameResults s' t t') (a : Nat) (bs : List Byte) :
    s.SameResults s' (t.memWrite a bs) (t'.memWrite a bs) :=
  { h with dmem := congrArg (Memory.writeBytes · a bs) h.dmem }

theorem withDraws (h : s.SameResults s' t t') (d : Nat) :
    s.SameResults s' { t with draws := d } { t' with draws := d } :=
  { h with draws := rfl }

theorem loadKey (h : s.SameResults s' t t') (fold : DWord) (k : RoundKeys) :
    s.SameResults s' (t.loadKey fold k) (t'.loadKey fold k) :=
  { h with kfold := .equal _ _ fold, rk := .equal _ _ k, rkValid := .equal _ _ true }

theorem clearKey (h : s.SameResults s' t t') : s.SameResults s' t.clearKey t'.clearKey :=
  { h with kfold := .equal _ _ 0, rk := .equal _ _ RoundKeys.zero, rkValid := .equal _ _ false }

theorem complete (h : s.SameResults s' t t') : s.SameResults s' t.complete t'.complete := { h with }

theorem failed (h : s.SameResults s' t t') (code : ErrCode) : s.SameResults s' (t.failed code) (t'.failed code) :=
  { h with error := .equal _ _ (true, code) }

end State.SameResults

section

variable {s s' t t' : State}

theorem State.SameInputs.start (h : s.SameInputs s') : s.SameResults s' s s' :=
  ⟨h.dmem, h.draws, .kept _ _, .kept _ _, .kept _ _, .kept _ _, .kept _ _, .kept _ _, .kept _ _⟩

/-- Both states read the same bytes of a region. -/
theorem State.SameInputs.memRead_fst (h : s.SameInputs s') (g : Region) : (s'.memRead g).1 = (s.memRead g).1 := by
  rw [State.memRead_fst, State.memRead_fst, h.dmem, h.draws]

/-- Both states take the same draws in a read. -/
theorem State.SameInputs.memRead_snd (h : s.SameInputs s') (g : Region) :
    (s'.memRead g).2 = { s' with draws := (s.memRead g).2.draws } := by
  rw [State.memRead_snd, State.memRead_snd, h.dmem, h.draws]

theorem State.SameInputs.memRead (h : s.SameInputs s') (g : Region) :
    s.SameResults s' (s.memRead g).2 (s'.memRead g).2 := by
  rw [h.memRead_snd]
  exact h.start.withDraws _

/-- The reads of an ECB command are the same in both states. -/
theorem State.SameInputs.ecbReads (h : s.SameInputs s') :
    s'.ecbKey = s.ecbKey ∧ s'.ecbText = s.ecbText ∧ s'.ecbDraws = s.ecbDraws := by
  simp only [State.ecbKey, State.ecbText, State.ecbDraws, State.memRead, h.operands, h.dmem, h.draws, and_self]

/-- Two commands with the same checks, whose effects agree, agree: a failed check gives both the same code. -/
theorem State.SameInputs.sameResults_of_perform (h : s.SameInputs s') {o o' : Host.Outcome State Fault Refusal}
    {checks checks' : List (Bool × ErrCode)} {effects effects' : Unit → State}
    (ho : o = s.perform checks effects) (ho' : o' = s'.perform checks' effects')
    (ht : o = .next t) (ht' : o' = .next t') (hchecks : checks' = checks)
    (heffects : s.SameResults s' (effects ()) (effects' ())) : s.SameResults s' t t' := by
  subst hchecks
  rw [ho] at ht
  rw [ho'] at ht'
  cases hf : firstFailure checks' with
  | none =>
    have hpass := (firstFailure_eq_none checks').mp hf
    rw [State.perform_of_pass hpass] at ht ht'
    cases ht
    cases ht'
    exact heffects
  | some code =>
    rw [State.perform_of_fail hf] at ht ht'
    cases ht
    cases ht'
    exact h.start.failed code

/-- The round-index commands agree where their effects agree for every round key. -/
theorem State.SameInputs.sameResults_of_withRoundKey (h : s.SameInputs s') {r : BitVec 3}
    {effect effect' : DWord → State} (ht : s.withRoundKey r effect = .next t) (ht' : s'.withRoundKey r effect' = .next t')
    (heffect : ∀ k, s.SameResults s' (effect k) (effect' k)) : s.SameResults s' t t' := by
  rw [State.withRoundKey_eq] at ht ht'
  rw [h.operands] at ht'
  split_ifs at ht ht' <;> cases ht <;> cases ht'
  · exact heffect _
  · exact h.start.failed _
  · exact h.start.failed _

/-- HEX_DEC's effects agree: the text both read decides success, and on success gives the bytes. -/
theorem State.SameInputs.sameResults_of_execHexDec (h : s.SameInputs s') (ht : execHexDec s = .next t)
    (ht' : execHexDec s' = .next t') : s.SameResults s' t t' := by
  refine h.sameResults_of_perform (execHexDec_eq s) (execHexDec_eq s') ht ht' (by rw [h.operands, h.params]) ?_
  rw [h.operands, h.params, h.memRead_fst]
  cases hexToBytes s.params.hexAcceptUpper (s.memRead s.operands.src).1 with
  | none =>
    simp only [State.fail_eq_failed]
    exact (h.memRead _).failed _
  | some out => exact (((h.memRead _).memWrite _ out).withDstLen _).complete

/-- Two states that agree on a command's inputs give the same results. -/
theorem State.SameInputs.sameResults_of_exec {i : Instr} (h : s.SameInputs s') (ht : exec i s = .next t)
    (ht' : exec i s' = .next t') : s.SameResults s' t t' := by
  obtain ⟨hkey, htext, hdraws⟩ := h.ecbReads
  cases i with
  | nop => exact h.sameResults_of_perform (exec_nop s) (exec_nop s') ht ht' rfl h.start.complete
  | kclear => exact h.sameResults_of_perform (exec_kclear s) (exec_kclear s') ht ht' rfl h.start.clearKey.complete
  | subst =>
    refine h.sameResults_of_perform (exec_subst s) (exec_subst s') ht ht' rfl ?_
    rw [h.operands]
    exact (h.start.withWout _).complete
  | roundf r =>
    refine h.sameResults_of_withRoundKey ht ht' fun k => ?_
    rw [h.operands]
    exact (h.start.withWout _).complete
  | rndEnc r | rndDec r =>
    refine h.sameResults_of_withRoundKey ht ht' fun k => ?_
    rw [h.operands]
    exact (h.start.withBlk _).complete
  | blkEnc =>
    refine h.sameResults_of_perform (exec_blkEnc s) (exec_blkEnc s') ht ht' (by rw [h.operands]) ?_
    rw [h.operands]
    exact (h.start.withBlk _).complete
  | blkDec =>
    refine h.sameResults_of_perform (exec_blkDec s) (exec_blkDec s') ht ht' (by rw [h.operands]) ?_
    rw [h.operands]
    exact (h.start.withBlk _).complete
  | ksched =>
    refine h.sameResults_of_perform (execKsched_eq s) (execKsched_eq s') ht ht' (by rw [h.operands, h.params]) ?_
    rw [h.operands, h.memRead_fst]
    exact ((h.memRead _).loadKey _ _).complete
  | ecbEnc =>
    refine h.sameResults_of_perform (execEcbEnc_eq s) (execEcbEnc_eq s') ht ht' (by rw [h.operands, h.params]) ?_
    rw [h.operands, hkey, htext, hdraws]
    exact (((h.start.withDraws _).memWrite _ _).withDstLen _).clearKey.complete
  | ecbDec =>
    refine h.sameResults_of_perform (execEcbDec_eq s) (execEcbDec_eq s') ht ht' (by rw [h.operands, h.params]) ?_
    rw [h.operands, hkey, htext, hdraws]
    exact (((h.start.withDraws _).memWrite _ _).withDstLen _).clearKey.complete
  | hexEnc =>
    refine h.sameResults_of_perform (execHexEnc_eq s) (execHexEnc_eq s') ht ht' (by rw [h.operands, h.params]) ?_
    rw [h.operands, h.memRead_fst]
    exact (((h.memRead _).memWrite _ _).withDstLen _).complete
  | hexDec => exact h.sameResults_of_execHexDec ht ht'

end

end Sys2Proof.Machine

section

open Sys2Proof Sys2Proof.Machine

/-- Settles O42: the same PEND gives the same operands, and every command keeps `State.SameResults`. -/
theorem commandsDependOnlyOnTheirInputs : Obligations.CommandsDependOnlyOnTheirInputs := by
  unfold Obligations.CommandsDependOnlyOnTheirInputs
  intro i s s' t t' p hp hp' hparams hdmem hdraws ht ht'
  have hoperands : s'.operands = s.operands := (State.operands_of_pend hp').trans (State.operands_of_pend hp).symm
  obtain ⟨hdmem, hdraws, hblk, hwout, hdstLen, hkfold, hrk, hrkValid, herror⟩ :=
    State.SameInputs.sameResults_of_exec ⟨hoperands, hparams, hdmem, hdraws⟩ ht ht'
  exact ⟨hdmem, hdraws, hblk, hwout, hdstLen, hkfold, hrk, hrkValid, by
    simpa [KeptOrEqual, and_assoc] using herror⟩

end

/-! ## The decoder: decode inverts encode, and the legal words by arithmetic -/

namespace Sys2Proof

theorem decodePlain_eq_ok_iff {i j : Instr} {w : Word} : decodePlain i w = .ok j ↔ ridxField w = 0 ∧ i = j := by
  unfold decodePlain
  split_ifs with hridx <;> simp only [hridx, Except.ok.injEq, true_and, false_and]

theorem decodeIndexed_eq_ok_iff {f : BitVec 3 → Instr} {j : Instr} {w : Word} :
    decodeIndexed f w = .ok j ↔ roundIndexLegal (ridxField w) = true ∧ f (ridxField w) = j := by
  unfold decodeIndexed
  split_ifs with hridx <;> simp [hridx]

/-- The decoder answers well-formed commands only: it checks the round index where a command takes one (R81, R83). -/
theorem wellFormed_of_decode {w : Word} {i : Instr} (h : decode w = .ok i) : i.wellFormed = true := by
  unfold decode at h
  split_ifs at h
  split at h
  case h_5 | h_6 | h_7 =>
    obtain ⟨hlegal, rfl⟩ := decodeIndexed_eq_ok_iff.mp h
    exact hlegal
  case h_14 => cases h
  all_goals
    obtain ⟨-, rfl⟩ := decodePlain_eq_ok_iff.mp h
    rfl

/-- The word of a well-formed command decodes to it, by the fields of that word. -/
theorem decode_encode {i : Instr} (h : i.wellFormed = true) : decode (encode i) = .ok i := by
  unfold decode
  rw [if_neg (not_not.mpr (rsvField_encode i)), opcField_encode]
  cases i with
  | roundf r | rndEnc r | rndDec r =>
    exact decodeIndexed_eq_ok_iff.mpr ⟨(congrArg roundIndexLegal (ridxField_encode _)).trans h,
      congrArg _ (ridxField_encode _)⟩
  | _ => exact decodePlain_eq_ok_iff.mpr ⟨ridxField_encode _, rfl⟩

theorem decode_eq_ok_iff {w : Word} {i : Instr} : decode w = .ok i ↔ i.wellFormed = true ∧ encode i = w := by
  constructor
  · exact fun h => ⟨wellFormed_of_decode h, encode_of_decode h⟩
  · rintro ⟨hwf, rfl⟩
    exact decode_encode hwf

@[simp] theorem toNat_opcField (w : Word) : (opcField w).toNat = w.toNat % 256 := by
  simp [opcField]

@[simp] theorem toNat_ridxField (w : Word) : (ridxField w).toNat = w.toNat / 256 % 8 := by
  simp [ridxField, Nat.shiftRight_eq_div_pow]

@[simp] theorem toNat_rsvField (w : Word) : (rsvField w).toNat = w.toNat / 2048 := by
  simp only [rsvField, BitVec.extractLsb'_toNat, Nat.shiftRight_eq_div_pow]
  omega

theorem ridxField_eq_zero_iff (w : Word) : ridxField w = 0 ↔ w.toNat / 256 % 8 = 0 := by
  rw [← BitVec.toNat_inj, toNat_ridxField]
  rfl

theorem rsvField_eq_zero_iff (w : Word) : rsvField w = 0 ↔ w.toNat / 2048 = 0 := by
  rw [← BitVec.toNat_inj, toNat_rsvField]
  rfl

/-- The opcodes of ROUNDF, RND_ENC and RND_DEC, which take a round index (R82). -/
def IndexedOpcode (w : Word) : Prop := w.toNat % 256 = 0x04 ∨ w.toNat % 256 = 0x05 ∨ w.toNat % 256 = 0x06

/-- R83's four illegal conditions, by arithmetic on the word. -/
def IllegalWord (w : Word) : Prop :=
  0x0D ≤ w.toNat % 256 ∨ w.toNat / 2048 ≠ 0 ∨ (IndexedOpcode w ∧ 5 ≤ w.toNat / 256 % 8) ∨
    (¬ IndexedOpcode w ∧ w.toNat / 256 % 8 ≠ 0)

theorem exists_decodePlain_iff {i : Instr} {w : Word} :
    (∃ j, decodePlain i w = .ok j) ↔ w.toNat / 256 % 8 = 0 := by
  simp only [decodePlain_eq_ok_iff, ridxField_eq_zero_iff, exists_and_left, exists_eq', and_true]

theorem exists_decodeIndexed_iff {f : BitVec 3 → Instr} {w : Word} :
    (∃ j, decodeIndexed f w = .ok j) ↔ w.toNat / 256 % 8 ≤ 4 := by
  simp [decodeIndexed_eq_ok_iff, roundIndexLegal]

/-- The decoder refuses exactly the words of R83, by the reserved bits and then by the opcode. -/
theorem exists_decode_iff (w : Word) : (∃ i, decode w = .ok i) ↔ ¬ IllegalWord w := by
  unfold decode IllegalWord IndexedOpcode
  rw [toNat_opcField]
  split_ifs with hrsv
  · rw [Ne, rsvField_eq_zero_iff] at hrsv
    simp [hrsv]
  · rw [not_not, rsvField_eq_zero_iff] at hrsv
    split
    case h_5 | h_6 | h_7 =>
      rw [exists_decodeIndexed_iff]
      omega
    case h_14 =>
      have hopc : 0x0D ≤ w.toNat % 256 := by
        simp only [imp_false] at *
        omega
      simp [hopc]
    all_goals
      rw [exists_decodePlain_iff]
      omega

/-- The words R83 leaves are those R84 lists. -/
theorem not_illegalWord_iff (w : Word) : ¬ IllegalWord w ↔
    w.toNat ≤ 0x0C ∨ ∃ r, 1 ≤ r ∧ r ≤ 4 ∧ 0x100 * r + 0x04 ≤ w.toNat ∧ w.toNat ≤ 0x100 * r + 0x06 := by
  unfold IllegalWord IndexedOpcode
  constructor
  · intro hlegal
    by_cases hplain : w.toNat ≤ 0x0C
    · exact .inl hplain
    · exact .inr ⟨w.toNat / 256 % 8, by omega, by omega, by omega, by omega⟩
  · rintro (hplain | ⟨r, hr, hr4, hlo, hhi⟩) <;> omega

end Sys2Proof

namespace Sys2Proof.Machine

theorem completeWord_of_illegal {w : Word} (h : IllegalWord w) (s : State) :
    completeWord w s = .next (s.failed .illegalCmd) := by
  cases hd : decode w with
  | ok i => exact absurd h ((exists_decode_iff w).mp ⟨i, hd⟩)
  | error e => exact completeWord_of_error hd s

end Sys2Proof.Machine

section

open Sys2Proof Sys2Proof.Machine

/-- Settles O1: a decoded word has its command's fields, and the fields of a well-formed command's word decode. -/
theorem decodeIsExactlyTheInverseOfEncode : Obligations.DecodeIsExactlyTheInverseOfEncode := by
  unfold Obligations.DecodeIsExactlyTheInverseOfEncode
  exact fun _ _ => decode_eq_ok_iff

/-- Settles O2: the words that meet none of R83's conditions are those of R84's list. -/
theorem legalWordsAreTheTwentyFiveOfR84 : Obligations.LegalWordsAreTheTwentyFiveOfR84 := by
  unfold Obligations.LegalWordsAreTheTwentyFiveOfR84
  exact fun w => (exists_decode_iff w).trans (not_illegalWord_iff w)

/-- Settles O3: each of the nine words is the encoding of its command. -/
theorem wordsOfTheOpcodeMapDecode : Obligations.WordsOfTheOpcodeMapDecode := by
  unfold Obligations.WordsOfTheOpcodeMapDecode
  simp only [decode_eq_ok_iff]
  decide

/-- Settles O4: the decoder refuses the words of R83 and no other, and a CMD write issues any word. -/
theorem illegalWordCompletesWithIllegalCmd : Obligations.IllegalWordCompletesWithIllegalCmd := by
  unfold Obligations.IllegalWordCompletesWithIllegalCmd
  intro w s opc ridx rsv indexed illegal
  refine ⟨fun hillegal => completeWord_of_illegal hillegal s, fun hlegal => ?_, fun hb => ?_⟩
  · obtain ⟨i, hd⟩ := (exists_decode_iff w).mpr hlegal
    exact ⟨i, hd, completeWord_of_ok hd s⟩
  · exact ⟨_, hostStep_writeReg_of_idle hb .cmd w, rfl, rfl, rfl, rfl⟩

end


/-! ## Issue, completion, and the commands on registers -/

namespace Sys2Proof.Machine

/-- A success with its lifecycle writes in the form of the claims. -/
theorem exec_eq_succeeded {i : Instr} {s t : State} (h : Succeeds i s t.complete) : exec i s = .next t.succeeded :=
  t.complete_eq_succeeded ▸ exec_of_succeeds h

/-- A legal RIDX as the 3 bits of its field (R81). -/
theorem toNat_ridx (r : Fin 5) : (BitVec.ofNat 3 r.val).toNat = r.val := by
  revert r
  decide

/-- With RK_VALID = 1 a round-index command with RIDX = r has its effect with RKr. -/
theorem State.withRoundKey_of_rkValid {s : State} (hv : s.operands.rkValid = true) (r : Fin 5) (effect : DWord → State) :
    s.withRoundKey (BitVec.ofNat 3 r.val) effect = .next (effect (s.operands.rk.get r)) := by
  have hr : (BitVec.ofNat 3 r.val).toNat < 5 := by
    rw [toNat_ridx]
    exact r.isLt
  have hget : (⟨(BitVec.ofNat 3 r.val).toNat, hr⟩ : Fin 5) = r := Fin.ext (toNat_ridx r)
  rw [State.withRoundKey_eq, dif_pos hr, if_pos hv, hget]

theorem coreStep_of_ok {s : State} {p : Pending} {i : Instr} (hp : s.pend = some p) (hd : decode p.word = .ok i) :
    coreStep s = exec i s :=
  (coreStep_of_pend hp).trans (completeWord_of_ok hd s)

theorem coreStep_of_error {s : State} {p : Pending} {e : DecodeError} (hp : s.pend = some p)
    (hd : decode p.word = .error e) : coreStep s = .next (s.failed .illegalCmd) :=
  (coreStep_of_pend hp).trans (completeWord_of_error hd s)

/-- The word that `withFetchWord` places for w is w. -/
theorem State.withFetchWord_eq (s : State) (w : Word) :
    s.withFetchWord 32 w.toNat = { s.issue w with events := .complete :: s.events } := by
  rw [State.withFetchWord, Nat.mod_eq_of_lt w.isLt, BitVec.ofNat_toNat, BitVec.setWidth_eq]

/-- A completion at the head of the queue is taken, and then CORE moves. -/
theorem step_complete {s : State} {rest : List Event} (h : s.events = .complete :: rest) :
    step s = coreStep { s with events := rest } :=
  step_cons h

theorem step_withFetchWord (s : State) (w : Word) : step (s.withFetchWord 32 w.toNat) = coreStep (s.issue w) := by
  rw [State.withFetchWord_eq, step_complete (rest := s.events) rfl]
  rfl

end Sys2Proof.Machine

section

open Sys2Proof Sys2Proof.Machine

/-- Settles O5: the step is CORE's turn, which decodes the word in flight. -/
theorem stepRunsTheDecodedCommand : Obligations.StepRunsTheDecodedCommand := by
  unfold Obligations.StepRunsTheDecodedCommand
  exact ⟨
    fun s p i hp hd => ⟨fun he => (step_nil he).trans (coreStep_of_ok hp hd),
      fun rest he => (step_complete he).trans (coreStep_of_ok hp hd)⟩,
    fun s p e hp hd => ⟨fun he => (step_nil he).trans (coreStep_of_error hp hd),
      fun rest he => (step_complete he).trans (coreStep_of_error hp hd)⟩,
    fun s w i hd => (step_withFetchWord s w).trans (coreStep_of_ok (s.issue_pend w) hd)⟩

/-- Settles O10: while CORE is idle the write is `State.issue`, and while it is busy an overrun. -/
theorem cmdWriteIssues : Obligations.CmdWriteIssues := by
  unfold Obligations.CmdWriteIssues
  refine fun s w => ⟨fun hb => ?_, fun p hp => State.operands_of_pend hp, fun hb => ?_⟩
  · exact hostStep_writeReg_of_idle hb .cmd w
  · rw [hostStep_writeReg, State.hostWriteReg_of_busy hb]
    rfl

/-- Settles O25: neither command has a check. -/
theorem nopAndKclearComplete : Obligations.NopAndKclearComplete := by
  unfold Obligations.NopAndKclearComplete
  exact fun s => ⟨exec_eq_succeeded (i := .nop) (t := s) rfl, exec_eq_succeeded (i := .kclear) (t := s.clearKey) rfl⟩

/-- Settles O26: the key bytes are one read of the key region. -/
theorem kschedLoadsTheKeyRegisters : Obligations.KschedLoadsTheKeyRegisters := by
  unfold Obligations.KschedLoadsTheKeyRegisters
  intro s hkey
  exact ⟨_, _, s.length_memRead s.operands.key, s.reads_memRead s.operands.key, s.dmem.le_draws_readBytes _ _ _,
    exec_eq_succeeded (i := .ksched) ⟨valid_region_iff.mpr hkey, rfl⟩⟩

/-- Settles O27: SUBST has no check, and ROUNDF r passes both of its own. -/
theorem substAndRoundfWriteWout : Obligations.SubstAndRoundfWriteWout := by
  unfold Obligations.SubstAndRoundfWriteWout
  refine fun s => ⟨exec_eq_succeeded (i := .subst) (t := s.withWout (substitute s.operands.win)) rfl, fun hv r => ?_⟩
  have hexec : exec (.roundf (BitVec.ofNat 3 r.val)) s = _ := State.withRoundKey_of_rkValid hv r _
  rw [hexec, State.complete_eq_succeeded]
  rfl

/-- Settles O28: the selected round key is RKr. -/
theorem roundCommandsTransformTheBlock : Obligations.RoundCommandsTransformTheBlock := by
  unfold Obligations.RoundCommandsTransformTheBlock
  intro s hv r
  have henc : exec (.rndEnc (BitVec.ofNat 3 r.val)) s = _ := State.withRoundKey_of_rkValid hv r _
  have hdec : exec (.rndDec (BitVec.ofNat 3 r.val)) s = _ := State.withRoundKey_of_rkValid hv r _
  rw [henc, hdec, State.complete_eq_succeeded, State.complete_eq_succeeded]
  exact ⟨rfl, rfl⟩

/-- Settles O29: the fold over RK0 to RK4, or over their reverse, written out. -/
theorem blockCommandsRunFiveRounds : Obligations.BlockCommandsRunFiveRounds := by
  unfold Obligations.BlockCommandsRunFiveRounds
  intro s hv b k
  exact ⟨exec_eq_succeeded (i := .blkEnc) (t := s.withBlk (blockEncrypt b k)) ⟨hv, rfl⟩,
    exec_eq_succeeded (i := .blkDec) (t := s.withBlk (blockDecrypt b k)) ⟨hv, rfl⟩⟩

end


/-! ## The checks of the memory commands, and HEX_DEC

Each memory command that writes checks its regions for RANGE and then its source and destination for OVERLAP (R202);
ECB_DEC and HEX_DEC check their length before. -/

namespace Sys2Proof.Machine

/-- A first check that fails gives the code. -/
theorem firstFailure_cons_of_fail {ok : Bool} (h : ¬ ok = true) (code : ErrCode) (rest : List (Bool × ErrCode)) :
    firstFailure ((ok, code) :: rest) = some code :=
  if_neg h

/-- A first check that passes leaves the code to the rest. -/
theorem firstFailure_cons_of_pass {ok : Bool} (h : ok = true) (code : ErrCode) (rest : List (Bool × ErrCode)) :
    firstFailure ((ok, code) :: rest) = firstFailure rest :=
  if_pos h

/-- A check list that opens with checks for one code reports that code where one of them fails. -/
theorem firstFailure_append_of_fail {l : List (Bool × ErrCode)} {code : ErrCode} (hcode : ∀ c ∈ l, c.2 = code)
    (hfail : ¬ ∀ c ∈ l, c.1 = true) (rest : List (Bool × ErrCode)) : firstFailure (l ++ rest) = some code := by
  induction l with
  | nil => simp at hfail
  | cons c l ih =>
    obtain ⟨ok, e⟩ := c
    obtain ⟨rfl, hl⟩ := List.forall_mem_cons.mp hcode
    by_cases hok : ok = true
    · have htail : ¬ ∀ c ∈ l, c.1 = true := fun h => hfail (List.forall_mem_cons.mpr ⟨hok, h⟩)
      exact (firstFailure_cons_of_pass hok _ _).trans (ih hl htail)
    · exact firstFailure_cons_of_fail hok _ _

/-- A check list reports what its rest reports where the first checks pass. -/
theorem firstFailure_append_of_pass {l : List (Bool × ErrCode)} (hpass : ∀ c ∈ l, c.1 = true)
    (rest : List (Bool × ErrCode)) : firstFailure (l ++ rest) = firstFailure rest := by
  induction l with
  | nil => rfl
  | cons c l ih =>
    obtain ⟨hc, hl⟩ := List.forall_mem_cons.mp hpass
    exact (firstFailure_cons_of_pass hc _ _).trans (ih hl)

/-- The checks for RANGE and OVERLAP that the memory commands share (R95, R96, R98). -/
def regionChecks (p : Params) (gs : List Region) (src dst : Region) : List (Bool × ErrCode) :=
  gs.map (fun g => (g.valid p, .range)) ++ [(!src.overlaps dst, .overlap)]

section

variable {p : Params} {gs : List Region} {src dst : Region}

theorem firstFailure_regionChecks_of_invalid (h : ¬ ∀ g ∈ gs, g.valid p = true) :
    firstFailure (regionChecks p gs src dst) = some .range :=
  firstFailure_append_of_fail (by simp) (by simpa using h) _

theorem firstFailure_regionChecks_of_overlap (h : ∀ g ∈ gs, g.valid p = true) (hover : src.overlaps dst = true) :
    firstFailure (regionChecks p gs src dst) = some .overlap := by
  rw [regionChecks, firstFailure_append_of_pass (by simpa using h)]
  simp [firstFailure, hover]

theorem firstFailure_regionChecks_of_pass (h : ∀ g ∈ gs, g.valid p = true) (hover : src.overlaps dst = false) :
    firstFailure (regionChecks p gs src dst) = none := by
  rw [regionChecks, firstFailure_append_of_pass (by simpa using h)]
  simp [firstFailure, hover]

end

/-! The claims' terms as the checks of the operands' regions. -/

section

variable {s : State} {x : Inputs} {n : Nat}

theorem overlaps_region_iff {a1 a2 : Word} {l1 l2 : Nat} :
    Region.overlaps { addr := a1.toNat, len := l1 } { addr := a2.toNat, len := l2 } = true ↔
      Claims.Overlap a1 l1 a2 l2 :=
  Region.overlaps_iff _ _

theorem valid_key_src_dst_iff : (∀ g ∈ [x.key, x.src, x.dst n], g.valid s.params = true) ↔
    Claims.Valid s x.keyAddr x.keyLen.toNat ∧ Claims.Valid s x.srcAddr x.srcLen.toNat ∧ Claims.Valid s x.dstAddr n := by
  simp [Inputs.key, Inputs.src, Inputs.dst, valid_region_iff]

theorem valid_src_dst_iff : (∀ g ∈ [x.src, x.dst n], g.valid s.params = true) ↔
    Claims.Valid s x.srcAddr x.srcLen.toNat ∧ Claims.Valid s x.dstAddr n := by
  simp [Inputs.src, Inputs.dst, valid_region_iff]

end

/-! The memory commands over `regionChecks`. -/

theorem exec_ecbEnc_of_fail {s : State} {code : ErrCode}
    (h : firstFailure (regionChecks s.params
      [s.operands.key, s.operands.src, s.operands.dst (paddedLen s.operands.src.len)] s.operands.src
      (s.operands.dst (paddedLen s.operands.src.len))) = some code) : exec .ecbEnc s = .next (s.failed code) :=
  (execEcbEnc_eq s).trans (State.perform_of_fail h _)

theorem exec_ecbDec_of_fail {s : State} {code : ErrCode}
    (h : firstFailure ((decide (s.operands.src.len % 16 = 0), .invalidInputLength) :: regionChecks s.params
      [s.operands.key, s.operands.src, s.operands.dst s.operands.src.len] s.operands.src
      (s.operands.dst s.operands.src.len)) = some code) : exec .ecbDec s = .next (s.failed code) :=
  (execEcbDec_eq s).trans (State.perform_of_fail h _)

theorem exec_hexEnc_of_fail {s : State} {code : ErrCode}
    (h : firstFailure (regionChecks s.params
      [s.operands.src, s.operands.dst (2 * s.operands.src.len)] s.operands.src
      (s.operands.dst (2 * s.operands.src.len))) = some code) : exec .hexEnc s = .next (s.failed code) :=
  (execHexEnc_eq s).trans (State.perform_of_fail h _)

theorem exec_hexDec_of_fail {s : State} {code : ErrCode}
    (h : firstFailure ((decide (s.operands.src.len % 2 = 0), .malformedHex) :: regionChecks s.params
      [s.operands.src, s.operands.dst (s.operands.src.len / 2)] s.operands.src
      (s.operands.dst (s.operands.src.len / 2))) = some code) : exec .hexDec s = .next (s.failed code) :=
  (execHexDec_eq s).trans (State.perform_of_fail h _)

/-- A written region reads as it stands, and the read takes no draw. -/
theorem State.memRead_of_holds {s : State} {g : Region} {bs : List Byte} (hl : bs.length = g.len)
    (h : s.dmem.Holds g.addr bs) : s.memRead g = (bs, s) := by
  rw [State.memRead, ← hl, Memory.readBytes_of_holds h]

/-- A character has a digit exactly where it is a hex character, an upper-case one only where the parameter accepts it
(R170, R175). -/
theorem exists_hexDigit_iff (up : Bool) (c : Byte) : (∃ v, hexDigit up c = some v) ↔ Claims.IsHex up c := by
  unfold hexDigit Claims.IsHex
  split_ifs with hdigit hlower hupper
  · simp [hdigit]
  · simp [hlower]
  · simp [hupper]
  · simp only [exists_false, false_iff]
    tauto

/-- The digit's value, by arithmetic (R170). -/
theorem toNat_of_hexDigit {up : Bool} {c : Byte} {v : BitVec 4} (h : hexDigit up c = some v) :
    v.toNat = Claims.hexValue c := by
  unfold hexDigit at h
  unfold Claims.hexValue
  split_ifs at h with hdigit hlower hupper <;> obtain rfl := Option.some.inj h
  · rw [if_pos hdigit.2]
    bv_omega
  · rw [if_neg (by omega), if_pos hlower.1]
    bv_omega
  · rw [if_neg (by omega), if_neg (by omega)]
    bv_omega

/-- The parts of a decoded pair (R172). -/
theorem hexToBytes_cons_cons_eq_some_iff {up : Bool} {h l : Byte} {rest out : List Byte} :
    hexToBytes up (h :: l :: rest) = some out ↔ ∃ x y tl, hexDigit up h = some x ∧ hexDigit up l = some y ∧
      hexToBytes up rest = some tl ∧ out = (x ++ y : BitVec 8) :: tl := by
  rw [hexToBytes]
  split
  · next x y tl hx hy htl => simp [hx, hy, htl, eq_comm]
  · next hnone =>
    simp only [reduceCtorEq, false_iff]
    rintro ⟨x, y, tl, hx, hy, htl, _⟩
    exact hnone x y tl hx hy htl

/-- A text is accepted exactly when its length is even and every character is a hex character (R172). -/
theorem exists_hexToBytes_iff (up : Bool) : ∀ c : List Byte,
    (∃ out, hexToBytes up c = some out) ↔ c.length % 2 = 0 ∧ ∀ ch ∈ c, Claims.IsHex up ch
  | [] => by simp [hexToBytes]
  | [_] => by simp [hexToBytes]
  | h :: l :: rest => by
    have ih := exists_hexToBytes_iff up rest
    have hlength : (h :: l :: rest).length % 2 = rest.length % 2 := by
      simp only [List.length_cons]
      omega
    simp only [List.forall_mem_cons, ← exists_hexDigit_iff up h, ← exists_hexDigit_iff up l, hlength]
    constructor
    · rintro ⟨out, ho⟩
      obtain ⟨x, y, tl, hx, hy, htl, _⟩ := hexToBytes_cons_cons_eq_some_iff.mp ho
      obtain ⟨heven, hrest⟩ := ih.mp ⟨tl, htl⟩
      exact ⟨heven, ⟨x, hx⟩, ⟨y, hy⟩, hrest⟩
    · rintro ⟨heven, ⟨x, hx⟩, ⟨y, hy⟩, hrest⟩
      obtain ⟨tl, htl⟩ := ih.mpr ⟨heven, hrest⟩
      exact ⟨_, hexToBytes_cons_cons_eq_some_iff.mpr ⟨x, y, tl, hx, hy, htl, rfl⟩⟩

/-- Byte j of a decoded text comes from characters 2j and 2j + 1 (R172). -/
theorem toNat_getD_hexToBytes (up : Bool) : ∀ (c out : List Byte), hexToBytes up c = some out → ∀ j < out.length,
    (out.getD j 0).toNat = 16 * Claims.hexValue (c.getD (2 * j) 0) + Claims.hexValue (c.getD (2 * j + 1) 0)
  | [], out, ho, j, hj => by
    obtain rfl : [] = out := Option.some.inj ho
    simp at hj
  | [_], out, ho, j, hj => by cases ho
  | h :: l :: rest, out, ho, j, hj => by
    obtain ⟨x, y, tl, hx, hy, htl, rfl⟩ := hexToBytes_cons_cons_eq_some_iff.mp ho
    cases j with
    | zero =>
      have happend : (x ++ y : BitVec 8).toNat = 16 * x.toNat + y.toNat := by
        rw [BitVec.toNat_append, ← Nat.shiftLeft_add_eq_or_of_lt y.isLt, Nat.shiftLeft_eq, Nat.mul_comm]
      simpa [toNat_of_hexDigit hx, toNat_of_hexDigit hy] using happend
    | succ j => simpa [Nat.mul_succ] using toNat_getD_hexToBytes up rest tl htl j (by simpa using hj)

/-- HEX_DEC of a written text with a character that is no hex digit fails on its content alone. -/
theorem exec_hexDec_of_malformed {s : State} {c : List Byte} (heven : s.operands.srcLen.toNat % 2 = 0)
    (hsrc : Claims.Valid s s.operands.srcAddr s.operands.srcLen.toNat)
    (hdst : Claims.Valid s s.operands.dstAddr (s.operands.srcLen.toNat / 2))
    (hover : ¬ Claims.Overlap s.operands.srcAddr s.operands.srcLen.toNat s.operands.dstAddr
      (s.operands.srcLen.toNat / 2))
    (hlen : c.length = s.operands.srcLen.toNat) (hholds : s.dmem.Holds s.operands.srcAddr.toNat c)
    (hmalformed : ∃ ch ∈ c, ¬ Claims.IsHex s.params.hexAcceptUpper ch) :
    exec .hexDec s = .next (s.failed .malformedHex) := by
  have hread : s.memRead s.operands.src = (c, s) := State.memRead_of_holds hlen hholds
  have hnone : hexToBytes s.params.hexAcceptUpper c = none := by
    refine Option.eq_none_iff_forall_ne_some.mpr fun out hout => ?_
    obtain ⟨ch, hmem, hnot⟩ := hmalformed
    obtain ⟨_, hhex⟩ := (exists_hexToBytes_iff _ c).mp ⟨out, hout⟩
    exact hnot (hhex ch hmem)
  have hpass := (firstFailure_cons_of_pass (decide_eq_true heven) .malformedHex _).trans
    (firstFailure_regionChecks_of_pass (valid_src_dst_iff.mpr ⟨hsrc, hdst⟩) (overlaps_region_eq_false_iff.mpr hover))
  refine (execHexDec_eq s).trans ((State.perform_of_pass ((firstFailure_eq_none _).mp hpass) _).trans ?_)
  rw [hread, hnone]
  exact congrArg _ (s.fail_eq_failed _)

end Sys2Proof.Machine

section

open Sys2Proof Sys2Proof.Machine

/-- Settles O35: a check for RANGE that fails is reported before OVERLAP. -/
theorem rangeThenOverlapChecks : Obligations.RangeThenOverlapChecks := by
  unfold Obligations.RangeThenOverlapChecks
  intro s x n e key src
  refine ⟨fun h => ?_, fun h => ?_, fun h hover => ?_, fun h => ?_, fun h hover => ?_⟩
  · exact (execKsched_eq s).trans (State.perform_of_fail
      (firstFailure_cons_of_fail (mt valid_region_iff.mp h) _ []) _)
  · exact exec_ecbEnc_of_fail (firstFailure_regionChecks_of_invalid (mt valid_key_src_dst_iff.mp h))
  · exact exec_ecbEnc_of_fail (firstFailure_regionChecks_of_overlap (valid_key_src_dst_iff.mpr h)
      (overlaps_region_iff.mpr hover))
  · exact exec_hexEnc_of_fail (firstFailure_regionChecks_of_invalid (mt valid_src_dst_iff.mp h))
  · exact exec_hexEnc_of_fail (firstFailure_regionChecks_of_overlap (valid_src_dst_iff.mpr h)
      (overlaps_region_iff.mpr hover))

/-- Settles O36: the length check comes before those of the regions. -/
theorem ecbDecChecksLengthFirst : Obligations.EcbDecChecksLengthFirst := by
  unfold Obligations.EcbDecChecksLengthFirst
  intro s x n valid
  refine ⟨fun hlen => ?_, fun hlen h => ?_, fun hlen h hover => ?_⟩
  · exact exec_ecbDec_of_fail (firstFailure_cons_of_fail (mt of_decide_eq_true hlen) _ _)
  · exact exec_ecbDec_of_fail ((firstFailure_cons_of_pass (decide_eq_true hlen) _ _).trans
      (firstFailure_regionChecks_of_invalid (mt valid_key_src_dst_iff.mp h)))
  · exact exec_ecbDec_of_fail ((firstFailure_cons_of_pass (decide_eq_true hlen) _ _).trans
      (firstFailure_regionChecks_of_overlap (valid_key_src_dst_iff.mpr h) (overlaps_region_iff.mpr hover)))

/-- Settles O37: the content check runs on the text as it stands, once the others have passed. -/
theorem hexDecChecksContentLast : Obligations.HexDecChecksContentLast := by
  unfold Obligations.HexDecChecksContentLast
  intro s c x n valid
  refine ⟨fun hlen => ?_, fun hlen h => ?_, fun hlen h hover => ?_, fun hlen ⟨hsrc, hdst⟩ hover hn hholds hmal => ?_⟩
  · exact exec_hexDec_of_fail (firstFailure_cons_of_fail (mt of_decide_eq_true hlen) _ _)
  · exact exec_hexDec_of_fail ((firstFailure_cons_of_pass (decide_eq_true hlen) _ _).trans
      (firstFailure_regionChecks_of_invalid (mt valid_src_dst_iff.mp h)))
  · exact exec_hexDec_of_fail ((firstFailure_cons_of_pass (decide_eq_true hlen) _ _).trans
      (firstFailure_regionChecks_of_overlap (valid_src_dst_iff.mpr h) (overlaps_region_iff.mpr hover)))
  · exact exec_hexDec_of_malformed hlen hsrc hdst hover hn hholds hmal

/-- Settles O33: the decoded text stands at the destination, one byte for each pair of characters. -/
theorem hexDecWritesTheBytes : Obligations.HexDecWritesTheBytes := by
  unfold Obligations.HexDecWritesTheBytes
  intro s c x n heven hsrc hdst hover hn hholds hhex
  obtain ⟨out, hout⟩ := (exists_hexToBytes_iff s.params.hexAcceptUpper c).mpr ⟨hn.symm ▸ heven, hhex⟩
  have hlen : out.length = n / 2 := by
    have := length_hexToBytes _ _ _ hout
    omega
  have hread : s.memRead x.src = (c, s) := State.memRead_of_holds hn hholds
  have hexec := exec_eq_succeeded (i := .hexDec) (s := s)
    (t := (s.memWrite x.dstAddr.toNat out).withDstLen (n / 2))
    ⟨⟨heven, valid_region_iff.mpr hsrc, valid_region_iff.mpr hdst, overlaps_region_eq_false_iff.mpr hover⟩,
      out, by rwa [hread], hlen, by rw [hread]; rfl⟩
  refine ⟨_, hexec, hlen ▸ s.dmem.sameOutside_writeBytes _ _, fun j hj => ?_⟩
  have hjout : j < out.length := hlen.symm ▸ hj
  refine (s.dmem.holds_writeBytes x.dstAddr.toNat out j hjout).trans ?_
  rw [← toNat_getD_hexToBytes _ _ _ hout j hjout]
  simp [hjout]

end


/-! ## Runs of the machine (R92, R224, R248) -/

namespace Sys2Proof.Machine

theorem coreStep_next (s : State) : ∃ t, coreStep s = .next t := by
  cases hp : s.pend with
  | none => exact ⟨s, coreStep_of_idle hp⟩
  | some p =>
    cases hd : decode p.word with
    | ok i => exact coreStep_of_ok hp hd ▸ exec_next i s
    | error e => exact ⟨_, coreStep_of_error hp hd⟩

/-- The command in flight completes on CORE's turn, whatever its word (R92, R93). -/
theorem coreStep_completes {s : State} (hp : s.pend.isSome = true) :
    ∃ t, coreStep s = .next t ∧ t.pend = none ∧ t.status.busy = false ∧ t.status.done = true := by
  obtain ⟨p, hp⟩ := Option.isSome_iff_exists.mp hp
  cases hd : decode p.word with
  | ok i =>
    obtain ⟨t, ht, hpend, hbusy, hdone, _⟩ := failureIsAtomic i s
    exact ⟨t, (coreStep_of_ok hp hd).trans ht, hpend, hbusy, hdone⟩
  | error e => exact ⟨_, coreStep_of_error hp hd, rfl, rfl, rfl⟩

/-- Only a host transaction can stop the machine. -/
theorem step_next_or_host (s : State) : (∃ t, step s = .next t) ∨ ∃ x rest, s.events = .host x :: rest := by
  cases he : s.events with
  | nil => exact .inl (step_nil he ▸ coreStep_next s)
  | cons e rest =>
    rw [step_cons he]
    cases e with
    | host x => exact .inr ⟨x, rest, rfl⟩
    | complete => exact .inl (coreStep_next _)
    | rstLow | rstHigh => exact .inl ⟨_, rfl⟩

/-- A step takes the next event, where one is left. -/
theorem step_events_tail {s t : State} (h : step s = .next t) : t.events = s.events.tail := by
  cases he : s.events with
  | nil => exact (coreStep_frame (step_nil he ▸ h)).1.trans he
  | cons e rest => exact step_events he h

/-- A longer run that answers a state is a step and a run from where it leads. -/
theorem run_succ_eq_next_iff {n : Nat} {s t : State} :
    core.run (n + 1) s = .next t ↔ ∃ s', step s = .next s' ∧ core.run n s' = .next t := by
  constructor
  · intro h
    cases hs : step s with
    | next s' => exact ⟨s', rfl, run_succ_of_next hs ▸ h⟩
    | fault f => cases (run_succ_of_fault hs).symm.trans h
    | refused r => cases (run_succ_of_refused hs).symm.trans h
  · rintro ⟨s', hs, hrun⟩
    exact (run_succ_of_next hs).trans hrun

theorem run_inv {n : Nat} {s t : State} (hs : s.Inv) (h : core.run n s = .next t) : t.Inv := by
  induction n generalizing s with
  | zero => cases h; exact hs
  | succ n ih =>
    obtain ⟨s', hstep, hrun⟩ := run_succ_eq_next_iff.mp h
    exact ih (step_inv hs hstep) hrun

/-- With the whole queue taken and one step more, nothing is left to come and nothing is in flight. -/
theorem run_drains {s t : State} (h : core.run (s.events.length + 1) s = .next t) : t.events = [] ∧ t.pend = none := by
  obtain ⟨s', hstep, hrun⟩ := run_succ_eq_next_iff.mp h
  cases he : s.events with
  | nil =>
    rw [he] at hrun
    cases hrun
    obtain ⟨hevents, hpend⟩ := coreStep_frame (step_nil he ▸ hstep)
    exact ⟨hevents.trans he, hpend⟩
  | cons e rest =>
    have hrest : s'.events = rest := step_events he hstep
    rw [he, List.length_cons, ← hrest] at hrun
    exact run_drains hrun
termination_by s.events.length
decreasing_by simp [he, hrest]

/-- A run whose last state has ended passes a first one (R248). -/
theorem exists_finalAfter {n : Nat} {s t : State} (hrun : core.run n s = .next t) (ht : t.RunEnded) :
    ∃ m u, m ≤ n ∧ s.FinalAfter m u := by
  classical
  have hex : ∃ m v, core.run m s = .next v ∧ v.RunEnded := ⟨n, t, hrun, ht⟩
  obtain ⟨u, hu, hended⟩ := Nat.find_spec hex
  exact ⟨Nat.find hex, u, Nat.find_min' hex ⟨t, hrun, ht⟩, hu, hended, fun m hm v hv hend =>
    Nat.find_min hex hm ⟨v, hv, hend⟩⟩

/-- A completion with nothing in flight only leaves the queue. -/
theorem step_complete_of_idle {s : State} {rest : List Event} (hp : s.pend = none) (he : s.events = .complete :: rest) :
    step s = .next { s with events := rest } :=
  (step_complete he).trans (coreStep_of_idle hp)

/-- While CORE is idle and only completions are to come, a run changes nothing but the queue. -/
theorem run_of_idle_completions (n : Nat) {s : State} (hp : s.pend = none) (hall : ∀ e ∈ s.events, e = .complete) :
    core.run n s = .next { s with events := s.events.drop n } := by
  induction n generalizing s with
  | zero => rfl
  | succ n ih =>
    cases he : s.events with
    | nil =>
      have hstep : step s = .next s := (step_nil he).trans (coreStep_of_idle hp)
      rw [run_succ_of_next hstep, ih hp hall, he]
      simp
    | cons e rest =>
      obtain ⟨rfl, hrest⟩ := List.forall_mem_cons.mp (he ▸ hall)
      rw [run_succ_of_next (step_complete_of_idle hp he)]
      exact ih hp hrest

/-- With no host transaction in the queue a run of any length answers a state. -/
theorem run_next_of_no_host (n : Nat) {s : State} (h : ∀ x, Event.host x ∉ s.events) : ∃ t, core.run n s = .next t := by
  induction n generalizing s with
  | zero => exact ⟨s, rfl⟩
  | succ n ih =>
    rcases step_next_or_host s with ⟨s', hstep⟩ | ⟨x, rest, he⟩
    · have hrest : ∀ x, Event.host x ∉ s'.events := fun x hx =>
        h x (List.mem_of_mem_tail (step_events_tail hstep ▸ hx))
      exact run_succ_of_next hstep ▸ ih hrest
    · exact absurd (he ▸ List.mem_cons_self) (h x)

/-- With only completions to come the command in flight completes at the first step. -/
theorem step_completes {s : State} (hp : s.pend.isSome = true) (hall : ∀ e ∈ s.events, e = .complete) :
    ∃ t, step s = .next t ∧ t.pend = none ∧ t.status.busy = false ∧ t.status.done = true := by
  cases he : s.events with
  | nil => exact step_nil he ▸ coreStep_completes hp
  | cons e rest =>
    obtain ⟨rfl, _⟩ := List.forall_mem_cons.mp (he ▸ hall)
    exact step_complete he ▸ coreStep_completes (s := { s with events := rest }) hp

end Sys2Proof.Machine

section

open Sys2Proof Sys2Proof.Machine

/-- Settles O9: each step takes one event, the last one completes what is in flight, and the first state that has ended is
the least number of steps to one. -/
theorem everyRunEndsIdle : Obligations.EveryRunEndsIdle := by
  unfold Obligations.EveryRunEndsIdle
  refine ⟨fun s t hs hrun => ?_, fun s hp hall => ?_, fun s rest hs hb he => ?_, step_next_or_host,
    fun s h => run_next_of_no_host _ h⟩
  · obtain ⟨hevents, hpend⟩ := run_drains hrun
    have hb : t.status.busy = false := by simpa [hpend] using (run_inv hs hrun).busy_iff_pend
    have hended : t.RunEnded := ⟨by simp [hevents], hb⟩
    exact ⟨exists_finalAfter hrun hended, hevents, hb, (step_nil hevents).trans (coreStep_of_idle hpend)⟩
  · obtain ⟨u, hstep, hpend, hb, hdone⟩ := step_completes hp hall
    have hrest : ∀ e ∈ u.events, e = .complete := fun e he =>
      hall e (List.mem_of_mem_tail (step_events_tail hstep ▸ he))
    exact ⟨_, (run_succ_of_next hstep).trans (run_of_idle_completions _ hpend hrest), hb, hdone, hpend⟩
  · exact step_complete_of_idle (hs.pend_of_idle hb) he

end

/-! ## The key schedule: the fold by arithmetic, and what the cipher sees of a round key -/

namespace Sys2Proof.Machine

/-- The big-endian value of any number of bytes, in exact integers: R11's be32 and R110's be64 without their widths. -/
def beNat (bs : List Byte) : Nat := bs.foldl (fun n b => 256 * n + b.toNat) 0

@[simp] theorem beNat_append_byte (bs : List Byte) (b : Byte) : beNat (bs ++ [b]) = 256 * beNat bs + b.toNat := by
  simp [beNat]

/-- The last byte is the least significant base-256 digit. -/
theorem beNat_eq_ofDigits (bs : List Byte) : beNat bs = Nat.ofDigits 256 (bs.map BitVec.toNat).reverse := by
  induction bs using List.reverseRecOn with
  | nil => rfl
  | append_singleton bs b ih =>
    rw [beNat_append_byte, ih, List.map_append, List.reverse_append]
    exact Nat.add_comm _ _

/-- The last min(L, m) bytes are the value mod 256^m. -/
theorem beNat_mod_pow (bs : List Byte) (m : Nat) : beNat bs % 256 ^ m = beNat (bs.drop (bs.length - m)) := by
  have hdigits : ∀ d ∈ (bs.map BitVec.toNat).reverse, d < 256 := by
    simp only [List.mem_reverse, List.mem_map, forall_exists_index, and_imp, forall_apply_eq_imp_iff₂]
    exact fun b _ => b.isLt
  rw [beNat_eq_ofDigits, Nat.ofDigits_mod_pow_eq_ofDigits_take m (by decide) _ hdigits, List.take_reverse,
    List.length_map, ← List.map_drop, ← beNat_eq_ofDigits]

theorem keyFold_append_byte (k : List Byte) (b : Byte) :
    keyFold (k ++ [b]) = (keyFold k <<< 8) ||| b.setWidth 64 := by
  simp [keyFold]

/-- One turn of R110's loop appends the byte and keeps 64 bits. -/
theorem toNat_foldStep (seed : DWord) (b : Byte) :
    ((seed <<< 8) ||| b.setWidth 64).toNat = (256 * seed.toNat + b.toNat) % 2 ^ 64 := by
  have happend : (seed <<< 8) ||| b.setWidth 64 = (seed ++ b).setWidth 64 := by
    ext i hi
    grind
  rw [happend, BitVec.toNat_setWidth, toNat_append_byte]

/-- The fold is the value of the whole key mod 2^64. -/
theorem toNat_keyFold (k : List Byte) : (keyFold k).toNat = beNat k % 2 ^ 64 := by
  induction k using List.reverseRecOn with
  | nil => rfl
  | append_singleton k b ih =>
    rw [keyFold_append_byte, toNat_foldStep, ih, beNat_append_byte]
    omega

/-- The fold is R110's loop in integers. -/
theorem toNat_keyFold_eq_loop (k : List Byte) :
    (keyFold k).toNat = k.foldl (fun n b => (256 * n + b.toNat) % 2 ^ 64) 0 := by
  induction k using List.reverseRecOn with
  | nil => rfl
  | append_singleton k b ih => rw [keyFold_append_byte, toNat_foldStep, ih, List.foldl_concat]

theorem keyFold_replicate_zero (n : Nat) : keyFold (List.replicate n 0) = 0 := by
  induction n with
  | zero => rfl
  | succ n ih =>
    rw [List.replicate_succ', keyFold_append_byte, ih]
    rfl

/-- One LCG step, exact before its one reduction (R111, R112). -/
theorem toNat_lcgStep (seed : DWord) :
    (lcgStep seed).toNat = (seed.toNat * 6364136223846793005 + 1442695040888963407) % 2 ^ 64 := by
  have ha : lcgA.toNat = 6364136223846793005 := by decide
  have hc : lcgC.toNat = 1442695040888963407 := by decide
  rw [lcgStep, BitVec.toNat_add, BitVec.toNat_mul, Nat.mod_add_mod, ha, hc]

/-- RKr is the seed after r + 1 steps (R111). -/
theorem get_expand (seed : DWord) (r : Fin 5) : (expand seed).get r = lcgStep^[r.val + 1] seed :=
  match r with
  | 0 | 1 | 2 | 3 | 4 => rfl

/-- The LCG step of R111 mod 2^32. -/
def lcgLowStep (x : Word) : Word := x * rk32 lcgA + rk32 lcgC

/-- No carry runs downward: the low 32 bits of an LCG step are a step on the low 32 bits. -/
theorem rk32_lcgStep (seed : DWord) : rk32 (lcgStep seed) = lcgLowStep (rk32 seed) :=
  calc (seed * lcgA + lcgC).setWidth 32
    _ = (seed * lcgA).setWidth 32 + lcgC.setWidth 32 := BitVec.setWidth_add _ _ (by decide)
    _ = lcgLowStep (rk32 seed) := congrArg (· + _) (BitVec.setWidth_mul _ _ (by decide))

theorem rk32_get_expand (seed : DWord) (r : Fin 5) :
    rk32 ((expand seed).get r) = lcgLowStep^[r.val + 1] (rk32 seed) := by
  have hsemi : Function.Semiconj rk32 lcgStep lcgLowStep := rk32_lcgStep
  rw [get_expand, hsemi.iterate_right]

theorem rk32_eq_iff {a b : DWord} : rk32 a = rk32 b ↔ a.toNat % 2 ^ 32 = b.toNat % 2 ^ 32 := by
  rw [← BitVec.toNat_inj, rk32, rk32, BitVec.toNat_setWidth, BitVec.toNat_setWidth]

/-! F, the rounds, the block transforms and the ECB functions read a round key through rk32 alone (R116, R122, R130). -/

section
variable {rk rk' : DWord} (h : rk32 rk = rk32 rk')
include h

theorem roundF_congr (x : Word) : roundF x rk = roundF x rk' := by
  simp only [roundF, h]

theorem roundEnc_congr (st : Block) : roundEnc st rk = roundEnc st rk' := by
  simp only [roundEnc, h, roundF_congr h]

theorem roundDec_congr (st : Block) : roundDec st rk = roundDec st rk' := by
  simp only [roundDec, h, roundF_congr h]

end

theorem RoundKeys.toList_eq_map_get (k : RoundKeys) : k.toList = (List.finRange 5).map k.get := rfl

section
variable {k k' : RoundKeys} (h : ∀ r, rk32 (k.get r) = rk32 (k'.get r))
include h

theorem blockEncrypt_congr (st : Block) : blockEncrypt st k = blockEncrypt st k' := by
  simp only [blockEncrypt, RoundKeys.toList_eq_map_get, List.foldl_map]
  exact List.foldl_ext _ _ _ fun st r _ => roundEnc_congr (h r) st

theorem blockDecrypt_congr (st : Block) : blockDecrypt st k = blockDecrypt st k' := by
  simp only [blockDecrypt, RoundKeys.toList_eq_map_get, ← List.map_reverse, List.foldl_map]
  exact List.foldl_ext _ _ _ fun st r _ => roundDec_congr (h r) st

theorem ecbEncrypt_congr (p : List Byte) : ecbEncrypt p k = ecbEncrypt p k' := by
  simp only [ecbEncrypt, blockEncrypt_congr h]

theorem ecbDecrypt_congr (c : List Byte) : ecbDecrypt c k = ecbDecrypt c k' := by
  simp only [ecbDecrypt, ecbBuffer, blockDecrypt_congr h]

end

/-- Keys whose folds agree mod 2^32 have round keys that agree mod 2^32. -/
theorem rk32_get_keySchedule_congr {key key' : List Byte}
    (h : (keyFold key).toNat % 2 ^ 32 = (keyFold key').toNat % 2 ^ 32) (r : Fin 5) :
    rk32 ((keySchedule key).get r) = rk32 ((keySchedule key').get r) := by
  rw [keySchedule, keySchedule, rk32_get_expand, rk32_get_expand, rk32_eq_iff.mpr h]

end Sys2Proof.Machine

section

open Sys2Proof Sys2Proof.Machine

/-- Settles O51: the fold is the whole key mod 256^8, and each turn of the loop is one byte of it. -/
theorem keyFoldIsTheLastEightBytes : Obligations.KeyFoldIsTheLastEightBytes := by
  unfold Obligations.KeyFoldIsTheLastEightBytes
  exact fun k => ⟨(toNat_keyFold k).trans (beNat_mod_pow k 8), toNat_keyFold_eq_loop k⟩

/-- Settles O52: `expand` is five steps, each by its arithmetic. -/
theorem roundKeysAreFiveLcgSteps : Obligations.RoundKeysAreFiveLcgSteps := by
  unfold Obligations.RoundKeysAreFiveLcgSteps
  exact ⟨fun _ => rfl, fun seed =>
    ⟨toNat_lcgStep _, toNat_lcgStep _, toNat_lcgStep _, toNat_lcgStep _, toNat_lcgStep _⟩⟩

/-- Settles O53: a zero key folds to 0, and 0 expands to R117's constants. -/
theorem zeroKeysGiveTheConstantsOfR117 : Obligations.ZeroKeysGiveTheConstantsOfR117 := by
  unfold Obligations.ZeroKeysGiveTheConstantsOfR117
  intro n
  rw [keySchedule, keyFold_replicate_zero]
  exact ⟨rfl, by decide⟩

/-- Settles O54: the LCG step commutes with rk32, through which alone the cipher reads a round key. -/
theorem onlyTheLastFourKeyBytesReachTheCipher : Obligations.OnlyTheLastFourKeyBytesReachTheCipher := by
  unfold Obligations.OnlyTheLastFourKeyBytesReachTheCipher
  refine ⟨fun key => ?_, fun key key' h => ?_⟩
  · rw [toNat_keyFold, Nat.mod_mod_of_dvd _ (by decide)]
    exact beNat_mod_pow key 4
  · have hrk := rk32_get_keySchedule_congr h
    exact ⟨fun p => ⟨ecbEncrypt_congr hrk p, ecbDecrypt_congr hrk p⟩,
      fun st => ⟨blockEncrypt_congr hrk st, blockDecrypt_congr hrk st⟩,
      fun r x st => ⟨hrk r, roundF_congr (hrk r) x, roundEnc_congr (hrk r) st, roundDec_congr (hrk r) st⟩⟩

end

/-! ## The substitution and the round function

A nibble of a word is one of its eight lanes (R121): `substitute` and the bitwise operations of F work lane by lane. -/

namespace Sys2Proof.Machine

/-- Nibble k of a word, by arithmetic. -/
theorem toNat_lane (w : Word) (k : Nat) : (w.extractLsb' (4 * k) 4).toNat = w.toNat / 16 ^ k % 16 := by
  rw [BitVec.extractLsb'_toNat, Nat.shiftRight_eq_div_pow, Nat.pow_mul]

/-- Bit j of a word is bit j mod 4 of its lane j / 4. -/
theorem getLsbD_lane (w : Word) (j : Nat) : (w.extractLsb' (4 * (j / 4)) 4).getLsbD (j % 4) = w.getLsbD j := by
  rw [BitVec.getLsbD_extractLsb', decide_eq_true (Nat.mod_lt j (by decide)), Bool.true_and, Nat.div_add_mod]

/-- A word is its eight lanes. -/
theorem word_ext_lanes {w w' : Word} (h : ∀ k < 8, w.extractLsb' (4 * k) 4 = w'.extractLsb' (4 * k) 4) : w = w' := by
  refine BitVec.eq_of_getLsbD_eq fun j hj => ?_
  rw [← getLsbD_lane w, ← getLsbD_lane w', h (j / 4) (by omega)]

/-- Lanes put together by OR: after n turns, the bits below 4n are those of the lanes and the rest are 0. -/
theorem getLsbD_foldl_lanes (f : Nat → BitVec 4) (n : Nat) {j : Nat} (hj : j < 32) :
    ((List.range n).foldl (fun acc k => acc ||| ((f k).setWidth 32 <<< (4 * k))) (0 : Word)).getLsbD j =
      (decide (j < 4 * n) && (f (j / 4)).getLsbD (j % 4)) := by
  induction n with
  | zero => simp
  | succ n ih =>
    rw [List.range_succ, List.foldl_concat, BitVec.getLsbD_or, ih, BitVec.getLsbD_shiftLeft, BitVec.getLsbD_setWidth]
    obtain hlt | ⟨hdiv, hmod⟩ | hge :
        j < 4 * n ∨ (j / 4 = n ∧ j - 4 * n = j % 4) ∨ 4 * n + 4 ≤ j := by omega
    · simp [hlt, show j < 4 * (n + 1) by omega]
    · simp [hj, hdiv, hmod, show ¬ j < 4 * n by omega, show j < 4 * (n + 1) by omega, show j % 4 < 32 by omega]
    · have hout : (f n).getLsbD (j - 4 * n) = false := BitVec.getLsbD_of_ge _ _ (by omega)
      simp [hout, show ¬ j < 4 * n by omega, show ¬ j < 4 * (n + 1) by omega]

/-- Lane k of substitute(w) is the S-box value of lane k of w (R121). -/
theorem lane_substitute (w : Word) {k : Nat} (hk : k < 8) :
    (substitute w).extractLsb' (4 * k) 4 = sbox (w.extractLsb' (4 * k) 4) := by
  refine BitVec.eq_of_getLsbD_eq fun i hi => ?_
  have hdiv : (4 * k + i) / 4 = k := by omega
  have hmod : (4 * k + i) % 4 = i := by omega
  rw [BitVec.getLsbD_extractLsb', substitute, getLsbD_foldl_lanes _ _ (by omega), hdiv, hmod]
  simp [hi, show 4 * k + i < 32 by omega]

/-- S[v] is the printed entry, and the printed inverse takes it back to v (R120). -/
theorem toNat_sbox (v : BitVec 4) : (sbox v).toNat = Claims.sboxValues.getD v.toNat 0 ∧
    [4, 3, 12, 0, 8, 6, 15, 5, 13, 11, 7, 10, 9, 14, 2, 1].getD (sbox v).toNat 0 = v.toNat := by
  revert v
  decide

theorem sbox_injective : Function.Injective sbox := fun v v' h =>
  BitVec.eq_of_toNat_eq ((toNat_sbox v).2.symm.trans (h ▸ (toNat_sbox v').2))

/-- The S-box is injective in every lane, so `substitute` is on words. -/
theorem substitute_injective : Function.Injective substitute := fun w w' h =>
  word_ext_lanes fun k hk => sbox_injective (by rw [← lane_substitute w hk, ← lane_substitute w' hk, h])

/-- F with the masked word written out (R122). -/
theorem roundF_eq (x : Word) (rk : DWord) : roundF x rk = substitute (x.rotateLeft 4 &&& rk32 rk) ||| rk32 rk := rfl

/-- The top 4 bits of x wrap into the bottom (R122). -/
theorem rotateLeft_four (x : Word) : x.rotateLeft 4 = BitVec.ofNat 32 (x.toNat * 16 % 2 ^ 32 + x.toNat / 2 ^ 28) := by
  have hdisjoint : x <<< 4 &&& x >>> 28 = 0 := by
    refine BitVec.eq_of_getLsbD_eq fun j hj => ?_
    by_cases h : j < 4
    · simp [h]
    · simp [BitVec.getLsbD_of_ge x (28 + j) (by omega)]
  have hor : x.rotateLeft 4 = x <<< 4 + x >>> 28 := (BitVec.add_eq_or_of_and_eq_zero _ _ hdisjoint).symm
  apply BitVec.eq_of_toNat_eq
  rw [hor, BitVec.toNat_add, BitVec.toNat_shiftLeft, BitVec.toNat_ushiftRight, BitVec.toNat_ofNat,
    Nat.shiftLeft_eq, Nat.shiftRight_eq_div_pow]

/-- Lane k of F where lane k of rk32 is 0: the masked lane is 0, and S[0] = 3 (R125). -/
theorem lane_roundF_of_zero (x : Word) {rk : DWord} {k : Nat} (hk : k < 8)
    (h : (rk32 rk).extractLsb' (4 * k) 4 = 0#4) : (roundF x rk).extractLsb' (4 * k) 4 = 3 := by
  rw [roundF_eq, BitVec.extractLsb'_or, lane_substitute _ hk, BitVec.extractLsb'_and, h, BitVec.and_zero]
  decide

/-- Each round-index command is `State.withRoundKey` with an effect of its own (R124, R133, R134). -/
theorem exists_exec_eq_withRoundKey {f : BitVec 3 → Instr} (hf : f ∈ [Instr.roundf, Instr.rndEnc, Instr.rndDec])
    (r : BitVec 3) (s : State) : ∃ effect, exec (f r) s = s.withRoundKey r effect := by
  simp only [List.mem_cons, List.not_mem_nil, or_false] at hf
  obtain rfl | rfl | rfl := hf <;> exact ⟨_, rfl⟩

section
variable {f : BitVec 3 → Instr} (hf : f ∈ [Instr.roundf, Instr.rndEnc, Instr.rndDec]) {r : BitVec 3} {s : State}
include hf

theorem exec_indexed_of_no_key (hr : r.toNat < 5) (hv : s.operands.rkValid = false) :
    exec (f r) s = .next (s.failed .noKey) := by
  obtain ⟨effect, heq⟩ := exists_exec_eq_withRoundKey hf r s
  rw [heq, State.withRoundKey_eq, dif_pos hr, if_neg (by simp [hv])]

theorem exec_indexed_of_illegal (hr : 5 ≤ r.toNat) : exec (f r) s = .next (s.failed .illegalCmd) := by
  obtain ⟨effect, heq⟩ := exists_exec_eq_withRoundKey hf r s
  rw [heq, State.withRoundKey_eq, dif_neg (by omega)]

end

end Sys2Proof.Machine

section

open Sys2Proof Sys2Proof.Machine

/-- Settles O34: RIDX is looked at before RK_VALID, and RK_VALID is the only check of the BLK commands. -/
theorem keyCommandsFailWithoutAKey : Obligations.KeyCommandsFailWithoutAKey := by
  unfold Obligations.KeyCommandsFailWithoutAKey
  refine fun s => ⟨fun hv => ?_, fun r hr f hf => exec_indexed_of_illegal hf hr⟩
  have hcheck : firstFailure [(s.operands.rkValid, .noKey)] = some .noKey :=
    firstFailure_cons_of_fail (by simp [hv]) .noKey []
  refine ⟨fun r f hf => exec_indexed_of_no_key hf ?_ hv, ?_, ?_⟩
  · exact (toNat_ridx r).trans_lt r.isLt
  · exact (exec_blkEnc s).trans (State.perform_of_fail hcheck _)
  · exact (exec_blkDec s).trans (State.perform_of_fail hcheck _)

/-- Settles O43: the lanes of the result are the S-box values of the lanes. -/
theorem substituteReplacesEachNibble : Obligations.SubstituteReplacesEachNibble := by
  unfold Obligations.SubstituteReplacesEachNibble
  intro w k hk
  rw [← toNat_lane, ← toNat_lane, lane_substitute w hk, (toNat_sbox _).1]

/-- Settles O44: the inverse table makes the S-box injective, and so `substitute` lane by lane. -/
theorem sboxIsABijection : Obligations.SboxIsABijection := by
  unfold Obligations.SboxIsABijection
  exact ⟨toNat_sbox, fun w w' h => substitute_injective h⟩

/-- Settles O45: the two shifts of the rotation have no bit in common, so their OR is a sum. -/
theorem roundFunctionIsR122 : Obligations.RoundFunctionIsR122 := by
  unfold Obligations.RoundFunctionIsR122
  intro x rk
  have hk : rk32 rk = BitVec.ofNat 32 (rk.toNat % 2 ^ 32) := by
    apply BitVec.eq_of_toNat_eq
    rw [rk32, BitVec.toNat_setWidth, BitVec.toNat_ofNat, Nat.mod_mod]
  rw [roundF_eq, rotateLeft_four, hk]

/-- Settles O46: the OR and the AND with rk32 bit by bit and lane by lane; under a key of ones F is constant. -/
theorem roundFunctionProperties : Obligations.RoundFunctionProperties := by
  unfold Obligations.RoundFunctionProperties
  refine ⟨⟨0, 1, 0xFFFFFFFF, by decide, by decide⟩, fun x rk rk' => ⟨?_, fun j hj hbit => ?_, fun j hj hzero => ?_, ?_⟩⟩
  · rw [roundF_eq, rk32]
    ext j hj
    simp +contextual
  · rw [roundF_eq, rk32]
    simp [hbit]
  · have hlane : (rk32 rk).extractLsb' (4 * j) 4 = 0#4 := BitVec.eq_of_toNat_eq ((toNat_lane _ j).trans hzero)
    rw [← toNat_lane, lane_roundF_of_zero x hj hlane]
    rfl
  · exact fun h => roundF_congr h x

end


/-! ## The block cipher

A round swaps the negated keyed words into the middle, where they are the inputs of F, so the inverse round computes the
same values of F and each XOR with them cancels (R130 to R132). -/

namespace Sys2Proof.Machine

/-- rk32 is the residue mod 2^32 (R13). -/
theorem rk32_eq_ofNat_mod (rk : DWord) : rk32 rk = BitVec.ofNat 32 (rk.toNat % 2 ^ 32) := by
  apply BitVec.eq_of_toNat_eq
  rw [rk32, BitVec.toNat_setWidth, BitVec.toNat_ofNat, Nat.mod_mod]

@[simp] theorem roundDec_roundEnc (st : Block) (rk : DWord) : roundDec (roundEnc st rk) rk = st := by
  simp only [roundDec, roundEnc, BitVec.not_not, BitVec.xor_assoc, BitVec.xor_self, BitVec.xor_zero]

@[simp] theorem roundEnc_roundDec (st : Block) (rk : DWord) : roundEnc (roundDec st rk) rk = st := by
  simp only [roundDec, roundEnc, BitVec.not_not, BitVec.xor_assoc, BitVec.xor_self, BitVec.xor_zero]

/-- A fold is undone by the fold over the reversed list whose step undoes each of its steps. -/
theorem foldl_reverse_foldl {α β : Type*} {f g : α → β → α} (h : ∀ x y, g (f x y) y = x) (l : List β) (x : α) :
    l.reverse.foldl g (l.foldl f x) = x := by
  induction l generalizing x with
  | nil => rfl
  | cons y l ih => rw [List.reverse_cons, List.foldl_concat, List.foldl_cons, ih, h]

@[simp] theorem blockDecrypt_blockEncrypt (st : Block) (k : RoundKeys) : blockDecrypt (blockEncrypt st k) k = st :=
  foldl_reverse_foldl roundDec_roundEnc k.toList st

@[simp] theorem blockEncrypt_blockDecrypt (st : Block) (k : RoundKeys) : blockEncrypt (blockDecrypt st k) k = st := by
  have hundo := foldl_reverse_foldl roundEnc_roundDec k.toList.reverse st
  rwa [List.reverse_reverse] at hundo

/-- The states of R138, which read the same from D to A. -/
def Block.Mirrored (st : Block) : Prop := st.a = st.d ∧ st.b = st.c

theorem mirrored_roundEnc (rk : DWord) {st : Block} (h : st.Mirrored) : (roundEnc st rk).Mirrored := by
  obtain ⟨had, hbc⟩ := h
  simp only [Block.Mirrored, roundEnc, had, hbc, and_self]

theorem mirrored_roundDec (rk : DWord) {st : Block} (h : st.Mirrored) : (roundDec st rk).Mirrored := by
  obtain ⟨had, hbc⟩ := h
  simp only [Block.Mirrored, roundDec, had, hbc, and_self]

theorem mirrored_blockEncrypt (k : RoundKeys) {st : Block} (h : st.Mirrored) : (blockEncrypt st k).Mirrored :=
  List.foldlRecOn k.toList roundEnc h fun _ hst rk _ => mirrored_roundEnc rk hst

theorem mirrored_blockDecrypt (k : RoundKeys) {st : Block} (h : st.Mirrored) : (blockDecrypt st k).Mirrored :=
  List.foldlRecOn k.toList.reverse roundDec h fun _ hst rk _ => mirrored_roundDec rk hst

/-- BLK_ENC, issued with RK_VALID = 1 and completed on CORE's turn (R91, R93, R135). -/
theorem coreStep_issue_blkEnc {s : State} (hv : s.status.rkValid = true) :
    coreStep (s.issue 0x00000007) = .next ((s.issue 0x00000007).withBlk (blockEncrypt s.blk s.rk)).succeeded :=
  have hdecode : decode 0x00000007 = .ok .blkEnc := decode_eq_ok_iff.mpr ⟨rfl, rfl⟩
  (coreStep_of_ok (s.issue_pend _) hdecode).trans
    (exec_eq_succeeded (t := (s.issue 0x00000007).withBlk (blockEncrypt s.blk s.rk)) ⟨hv, rfl⟩)

/-- BLK_DEC, issued with RK_VALID = 1 and completed on CORE's turn (R91, R93, R136). -/
theorem coreStep_issue_blkDec {s : State} (hv : s.status.rkValid = true) :
    coreStep (s.issue 0x00000008) = .next ((s.issue 0x00000008).withBlk (blockDecrypt s.blk s.rk)).succeeded :=
  have hdecode : decode 0x00000008 = .ok .blkDec := decode_eq_ok_iff.mpr ⟨rfl, rfl⟩
  (coreStep_of_ok (s.issue_pend _) hdecode).trans
    (exec_eq_succeeded (t := (s.issue 0x00000008).withBlk (blockDecrypt s.blk s.rk)) ⟨hv, rfl⟩)

end Sys2Proof.Machine

section

open Sys2Proof Sys2Proof.Machine

/-- Settles O47: NOT is subtraction from all ones, and rk32 the residue mod 2^32. -/
theorem roundsAreR130AndR131 : Obligations.RoundsAreR130AndR131 := by
  unfold Obligations.RoundsAreR130AndR131
  intro a b c d rk k x y
  have hnot (w : Word) : BitVec.allOnes 32 - w = ~~~w := BitVec.allOnes_sub_eq_not w
  simp only [x, y, k, hnot, ← rk32_eq_ofNat_mod]
  exact ⟨rfl, rfl⟩

/-- Settles O48: the double NOT and each double XOR cancel. -/
theorem roundsAreInverse : Obligations.RoundsAreInverse := by
  unfold Obligations.RoundsAreInverse
  exact fun st rk => ⟨roundDec_roundEnc st rk, roundEnc_roundDec st rk⟩

/-- Settles O49: the rounds undo each other in reverse order, and the second command samples what the first wrote. -/
theorem blockTransformsAreInverse : Obligations.BlockTransformsAreInverse := by
  unfold Obligations.BlockTransformsAreInverse
  refine ⟨fun st k => ⟨blockDecrypt_blockEncrypt st k, blockEncrypt_blockDecrypt st k⟩, fun s hv q hq => ?_⟩
  simp only [List.mem_cons, List.not_mem_nil, or_false] at hq
  obtain rfl | rfl := hq
  · exact ⟨_, _, coreStep_issue_blkEnc hv, rfl, coreStep_issue_blkDec hv, blockDecrypt_blockEncrypt _ _,
      rfl, rfl, rfl, rfl, rfl, rfl⟩
  · exact ⟨_, _, coreStep_issue_blkDec hv, rfl, coreStep_issue_blkEnc hv, blockEncrypt_blockDecrypt _ _,
      rfl, rfl, rfl, rfl, rfl, rfl⟩

/-- Settles O50: under A = D and B = C the two halves of a round are one computation, and a transform is a fold of rounds. -/
theorem mirrorStatesStayMirrored : Obligations.MirrorStatesStayMirrored := by
  unfold Obligations.MirrorStatesStayMirrored
  intro st rk k had hbc st' hst'
  have h : st.Mirrored := ⟨had, hbc⟩
  simp only [List.mem_cons, List.not_mem_nil, or_false] at hst'
  obtain rfl | rfl | rfl | rfl := hst'
  · exact mirrored_roundEnc rk h
  · exact mirrored_roundDec rk h
  · exact mirrored_blockEncrypt k h
  · exact mirrored_blockDecrypt k h

end


/-! ## The ECB chain: equal chunks, depadding, and the round trip (R150 to R158) -/

namespace Sys2Proof.Machine

/-- Every byte the strip removes is 0x00 (R152). -/
theorem getD_of_depadFrom_le {out : List Byte} {t i : Nat} (hle : depadFrom out t ≤ i) (hi : i < t) :
    out.getD i 0 = 0 := by
  induction t with
  | zero => omega
  | succ t ih =>
    rw [depadFrom] at hle
    split_ifs at hle with hzero
    · obtain hlt | rfl := Nat.lt_succ_iff_lt_or_eq.mp hi
      · exact ih hle hlt
      · exact hzero
    · omega

/-- The strip stops after a byte that is not 0x00, or at length 0 (R152). -/
theorem getD_depadFrom_sub_one_ne_zero {out : List Byte} {t : Nat} (h : depadFrom out t ≠ 0) :
    out.getD (depadFrom out t - 1) 0 ≠ 0 := by
  induction t with
  | zero => exact absurd rfl h
  | succ t ih =>
    rw [depadFrom] at h ⊢
    split_ifs at h ⊢ with hzero
    · exact ih h
    · exact hzero

/-- Zero bytes at the end do not change what the strip leaves. -/
theorem strip_append_zeros (p : List Byte) (n : Nat) :
    Claims.strip (p ++ List.replicate n 0) = Claims.strip p := by
  rw [Claims.strip, List.reverse_append, List.dropWhile_append_of_pos (by simp)]
  rfl

/-- The four bytes of the word that four bytes make (R11). -/
@[simp] theorem bytesBe32_be32 (b0 b1 b2 b3 : Byte) : bytesBe32 (be32 b0 b1 b2 b3) = [b0, b1, b2, b3] := by
  have hbyte {k : Nat} {b : Byte} (h : (be32 b0 b1 b2 b3).toNat / 2 ^ k % 256 = b.toNat) :
      (be32 b0 b1 b2 b3).extractLsb' k 8 = b := by
    refine BitVec.eq_of_toNat_eq ?_
    rwa [BitVec.extractLsb'_toNat, Nat.shiftRight_eq_div_pow]
  rw [bytesBe32, hbyte (b := b0), hbyte (b := b1), hbyte (b := b2), hbyte (b := b3)] <;> rw [toNat_be32] <;> omega

/-- Sixteen bytes are the bytes of the block they make (R68). -/
theorem Block.toBytes_ofBytes {c : List Byte} (h : c.length = 16) : (Block.ofBytes c).toBytes = c := by
  match c, h with
  | [_, _, _, _, _, _, _, _, _, _, _, _, _, _, _, _], _ => simp [Block.ofBytes, Block.toBytes]

/-- A block is the block its bytes make (R68). -/
@[simp] theorem Block.ofBytes_toBytes (b : Block) : Block.ofBytes b.toBytes = b :=
  congr (congr (congr (congrArg Block.mk (be32_bytesBe32 b.a)) (be32_bytesBe32 b.b)) (be32_bytesBe32 b.c))
    (be32_bytesBe32 b.d)

/-- Chunk j of the ciphertext is the encryption of chunk j of the text, with nothing padded (R151). -/
theorem chunk_ecbEncrypt (p : List Byte) (k : RoundKeys) {j : Nat} (hj : j < (p.length + 15) / 16) :
    chunk (ecbEncrypt p k) j = (blockEncrypt (Block.ofBytes (chunk p j)) k).toBytes := by
  rw [chunk, slice_ecbEncrypt p k hj, chunkBytes_eq_chunk]
  simp

/-- Byte i of a zero-padded text is byte i of the text, 0x00 past its end (R150). -/
theorem getElem?_append_zeros (p : List Byte) (n : Nat) {i : Nat} (hi : i < p.length + n) :
    (p ++ List.replicate n 0)[i]? = some (p.getD i 0) := by
  rw [List.getD_eq_getElem?_getD]
  by_cases h : i < p.length
  · rw [List.getElem?_append_left h, List.getElem?_eq_getElem h, Option.getD_some]
  · rw [List.getElem?_append_right (by omega), List.getElem?_replicate_of_lt (by omega),
      List.getElem?_eq_none (by omega), Option.getD_none]

/-- Decrypting a ciphertext under its key gives the zero-padded text, block by block (R132, R150 to R152). -/
theorem ecbBuffer_ecbEncrypt (p : List Byte) (k : RoundKeys) :
    ecbBuffer (ecbEncrypt p k) k = p ++ List.replicate (paddedLen p.length - p.length) 0 := by
  have hblocks : (ecbEncrypt p k).length / 16 = (p.length + 15) / 16 := by
    rw [length_ecbEncrypt, paddedLen, Nat.mul_div_cancel_left _ (by decide)]
  have hlen : p.length + (paddedLen p.length - p.length) = 16 * ((p.length + 15) / 16) := by
    rw [paddedLen]
    omega
  refine List.ext_getElem? fun i => ?_
  by_cases hi : i < 16 * ((p.length + 15) / 16)
  · have hj : i / 16 < (p.length + 15) / 16 := by omega
    have hmod : i % 16 < 16 := Nat.mod_lt i (by decide)
    rw [getElem?_append_zeros p _ (hlen ▸ hi), ← Nat.div_add_mod i 16, getElem?_ecbBuffer _ _ (hblocks ▸ hj) hmod,
      chunk_ecbEncrypt p k hj, Block.ofBytes_toBytes, blockDecrypt_blockEncrypt,
      Block.toBytes_ofBytes (length_chunk p _), getElem?_chunk p _ hmod]
  · rw [List.getElem?_eq_none (by rw [length_ecbBuffer, hblocks]; omega),
      List.getElem?_eq_none (by rw [List.length_append, List.length_replicate, hlen]; omega)]

/-- A write outside a region that holds a list leaves it there. -/
theorem Memory.Holds.of_sameOutside {m m' : Memory} {a b : Word} {bs : List Byte} {n : Nat} (h : m.Holds a.toNat bs)
    (hsame : m.SameOutside m' b.toNat n) (hover : ¬ Claims.Overlap a bs.length b n) : m'.Holds a.toNat bs := by
  intro j hj
  unfold Claims.Overlap at hover
  exact (hsame _ (by omega)).trans (h j hj)

/-- A valid length fits in DST_LEN (R37, R95). -/
theorem toNat_ofNat_of_valid {s : State} {a : Word} {l : Nat} (h : Claims.Valid s a l) :
    (BitVec.ofNat 32 l).toNat = l := by
  obtain ⟨_, _, hmax⟩ := s.params.dmemBytes_legal
  unfold Claims.Valid at h
  rw [BitVec.toNat_ofNat, Nat.mod_eq_of_lt (by omega)]

section

variable {s : State}

/-- An ECB command reads a written key region as it stands. -/
theorem State.ecbKey_of_holds {key : List Byte} (hlen : key.length = s.operands.keyLen.toNat)
    (h : s.dmem.Holds s.operands.keyAddr.toNat key) : s.ecbKey = key :=
  congrArg Prod.fst (State.memRead_of_holds (g := s.operands.key) hlen h)

/-- An ECB command reads a written source region as it stands, whatever draws its key took. -/
theorem State.ecbText_of_holds {p : List Byte} (hlen : p.length = s.operands.srcLen.toNat)
    (h : s.dmem.Holds s.operands.srcAddr.toNat p) : s.ecbText = p :=
  congrArg Prod.fst (State.memRead_of_holds (s := (s.memRead s.operands.key).2) (g := s.operands.src) hlen h)

/-- ECB_ENC with valid regions that do not overlap succeeds, with the encryption of what it read (R153). -/
theorem exists_exec_ecbEnc (hkey : Claims.Valid s s.operands.keyAddr s.operands.keyLen.toNat)
    (hsrc : Claims.Valid s s.operands.srcAddr s.operands.srcLen.toNat)
    (hdst : Claims.Valid s s.operands.dstAddr (paddedLen s.operands.srcLen.toNat))
    (hover : ¬ Claims.Overlap s.operands.srcAddr s.operands.srcLen.toNat s.operands.dstAddr
      (paddedLen s.operands.srcLen.toNat)) :
    ∃ t, exec .ecbEnc s = .next t ∧
      t.dmem = s.dmem.writeBytes s.operands.dstAddr.toNat (ecbEncrypt s.ecbText (keySchedule s.ecbKey)) ∧
      t.dstLen = BitVec.ofNat 32 (paddedLen s.operands.srcLen.toNat) :=
  ⟨_, exec_of_succeeds (i := .ecbEnc) ⟨⟨valid_region_iff.mpr hkey, valid_region_iff.mpr hsrc,
    valid_region_iff.mpr hdst, overlaps_region_eq_false_iff.mpr hover⟩, rfl⟩, rfl, rfl⟩

/-- ECB_DEC of whole blocks with valid regions that do not overlap succeeds, with the decryption of what it read (R154). -/
theorem exists_exec_ecbDec (h16 : s.operands.srcLen.toNat % 16 = 0)
    (hkey : Claims.Valid s s.operands.keyAddr s.operands.keyLen.toNat)
    (hsrc : Claims.Valid s s.operands.srcAddr s.operands.srcLen.toNat)
    (hdst : Claims.Valid s s.operands.dstAddr s.operands.srcLen.toNat)
    (hover : ¬ Claims.Overlap s.operands.srcAddr s.operands.srcLen.toNat s.operands.dstAddr
      s.operands.srcLen.toNat) :
    ∃ t, exec .ecbDec s = .next t ∧ t.status.errCode = s.status.errCode ∧
      t.dmem = s.dmem.writeBytes s.operands.dstAddr.toNat (ecbBuffer s.ecbText (keySchedule s.ecbKey)) ∧
      t.dstLen = BitVec.ofNat 32 (Claims.strip (ecbBuffer s.ecbText (keySchedule s.ecbKey))).length := by
  refine ⟨_, exec_of_succeeds (i := .ecbDec) ⟨⟨h16, valid_region_iff.mpr hkey, valid_region_iff.mpr hsrc,
    valid_region_iff.mpr hdst, overlaps_region_eq_false_iff.mpr hover⟩, rfl⟩, rfl, rfl, ?_⟩
  rw [← depadFrom_length, State.length_ecbPlaintext h16, ← s.length_ecbText]
  rfl

end

end Sys2Proof.Machine

section

open Sys2Proof Sys2Proof.Machine

/-- Settles O55: a ciphertext block is the encryption of its own chunk and of nothing else. -/
theorem equalChunksGiveEqualCiphertextBlocks : Obligations.EqualChunksGiveEqualCiphertextBlocks := by
  unfold Obligations.EqualChunksGiveEqualCiphertextBlocks
  intro p p' k j j' hj hj' hchunk
  rw [slice_ecbEncrypt p k hj, slice_ecbEncrypt p' k hj', hchunk]

/-- Settles O56: the strip started at the length of the buffer. -/
theorem depaddingStripsAllTrailingZeros : Obligations.DepaddingStripsAllTrailingZeros := by
  unfold Obligations.DepaddingStripsAllTrailingZeros
  exact fun out => ⟨fun _ => getD_of_depadFrom_le, getD_depadFrom_sub_one_ne_zero, depadFrom_length out⟩

/-- Settles O57: ECB_DEC reads the key and the ciphertext as ECB_ENC left them, and decrypting gives the padded text. -/
theorem ecbEncThenEcbDecRestoresThePlaintext : Obligations.EcbEncThenEcbDecRestoresThePlaintext := by
  unfold Obligations.EcbEncThenEcbDecRestoresThePlaintext
  intro s t u key p x y outlen hkeylen hkey hplen hp hvkey hvsrc hvdst hover hoverkey hexec hparams hdmem hykey hykeylen
    hysrc hysrclen hvydst hyover
  let k := keySchedule key
  have hpad : paddedLen s.operands.srcLen.toNat = outlen := congrArg paddedLen hplen.symm
  obtain ⟨t', ht', htdmem, htlen⟩ := exists_exec_ecbEnc (hkeylen ▸ hvkey) (hplen ▸ hvsrc) (hpad ▸ hvdst)
    (by rwa [hpad, ← hplen])
  obtain rfl : t' = t := Host.Outcome.next.inj (ht'.symm.trans hexec)
  rw [State.ecbKey_of_holds hkeylen hkey, State.ecbText_of_holds hplen hp, ← hdmem] at htdmem
  have hclen : (ecbEncrypt p k).length = outlen := length_ecbEncrypt p k
  have hsame : s.dmem.SameOutside u.dmem x.dstAddr.toNat outlen :=
    htdmem ▸ hclen ▸ s.dmem.sameOutside_writeBytes _ _
  have hylen : y.srcLen.toNat = outlen := by rw [hysrclen, htlen, hpad, toNat_ofNat_of_valid hvdst]
  have hukey : u.ecbKey = key := State.ecbKey_of_holds (hkeylen.trans (congrArg BitVec.toNat hykeylen).symm)
    (hykey ▸ hkey.of_sameOutside hsame hoverkey)
  have hutext : u.ecbText = ecbEncrypt p k := State.ecbText_of_holds (hclen.trans hylen.symm)
    (hysrc ▸ htdmem ▸ s.dmem.holds_writeBytes _ _)
  have hvalid {a : Word} {l : Nat} (h : Claims.Valid s a l) : Claims.Valid u a l := by rwa [Claims.Valid, hparams]
  obtain ⟨v, hv, herr, hvdmem, hvlen⟩ := exists_exec_ecbDec (hylen ▸ Nat.mul_mod_right 16 _)
    (hykey ▸ hykeylen ▸ hkeylen ▸ hvalid hvkey) (hysrc ▸ hylen ▸ hvalid hvdst) (hylen ▸ hvydst) (hylen ▸ hyover)
  rw [hukey, hutext, ecbBuffer_ecbEncrypt] at hvdmem hvlen
  have hstrip : (Claims.strip p).length < 2 ^ 32 :=
    calc (Claims.strip p).length = depadFrom p p.length := (depadFrom_length p).symm
      _ ≤ p.length := depadFrom_le p _
      _ = x.srcLen.toNat := hplen
      _ < 2 ^ 32 := x.srcLen.isLt
  refine ⟨v, hv, herr, ?_, hvdmem ▸ u.dmem.holds_writeBytes _ _⟩
  rw [hvlen, strip_append_zeros, BitVec.toNat_ofNat, Nat.mod_eq_of_lt hstrip]

end

/-! ## The hex codec's round trip and the texts it accepts -/

namespace Sys2Proof.Machine

/-- 'A'–'F' mapped to 'a'–'f', every other character kept (R176). -/
def lowerHex (c : Byte) : Byte := if 0x41 ≤ c.toNat ∧ c.toNat ≤ 0x46 then c + 0x20 else c

/-- The character of a hex character's value is that character in lower case. -/
theorem charValue_hexValue {up : Bool} {c : Byte} (h : Claims.IsHex up c) :
    Claims.charValue (Claims.hexValue c) = (lowerHex c).toNat := by
  unfold Claims.charValue Claims.hexValue lowerHex
  rcases h with ⟨hlo, hhi⟩ | ⟨hlo, hhi⟩ | ⟨_, hlo, hhi⟩
  · simp (disch := omega) only [if_pos, if_neg]
    omega
  · simp (disch := omega) only [if_pos, if_neg]
    omega
  · simp (disch := omega) only [if_pos, if_neg]
    bv_omega

/-- The character written for a digit is the one the digit was read from, in lower case (R170, R176). -/
theorem hexChar_of_hexDigit {up : Bool} {c : Byte} {v : BitVec 4} (h : hexDigit up c = some v) :
    hexChar v = lowerHex c := by
  have hhex : Claims.IsHex up c := (exists_hexDigit_iff up c).mp ⟨v, h⟩
  rw [hexChar_eq_charValue, toNat_of_hexDigit h, charValue_hexValue hhex, BitVec.ofNat_toNat, BitVec.setWidth_eq]

/-- Decoding an encoded byte list gives it back, byte by byte. -/
theorem hexToBytes_bytesToHex (up : Bool) (b : List Byte) : hexToBytes up (bytesToHex b) = some b := by
  induction b with
  | nil => rfl
  | cons v b ih =>
    rw [bytesToHex_cons, hexToBytes_cons_cons_eq_some_iff]
    exact ⟨_, _, _, hexDigit_hexChar _ up, hexDigit_hexChar _ up, ih, by rw [append_nibbles]⟩

/-- Encoding the bytes of an accepted text gives the text in lower case, pair by pair. -/
theorem bytesToHex_of_hexToBytes (up : Bool) : ∀ c b : List Byte, hexToBytes up c = some b →
    bytesToHex b = c.map lowerHex
  | [], b, hb => by
    obtain rfl : [] = b := Option.some.inj hb
    rfl
  | [_], _, hb => by cases hb
  | h :: l :: rest, b, hb => by
    obtain ⟨x, y, tl, hx, hy, htl, rfl⟩ := hexToBytes_cons_cons_eq_some_iff.mp hb
    obtain ⟨hhigh, hlow⟩ := nibbles_append x y
    rw [bytesToHex_cons, hhigh, hlow, hexChar_of_hexDigit hx, hexChar_of_hexDigit hy,
      bytesToHex_of_hexToBytes up rest tl htl]
    rfl

end Sys2Proof.Machine

section

open Sys2Proof Sys2Proof.Machine

/-- Settles O58: a written character reads back as its nibble, and a read one is written back in lower case. -/
theorem hexRoundTrip : Obligations.HexRoundTrip := by
  unfold Obligations.HexRoundTrip
  exact fun up => ⟨hexToBytes_bytesToHex up, bytesToHex_of_hexToBytes up⟩

/-- Settles O59: a character has a digit exactly where it is a hex character, and each byte is a pair of digits. -/
theorem hexTextIsAcceptedExactlyWhenValid : Obligations.HexTextIsAcceptedExactlyWhenValid := by
  unfold Obligations.HexTextIsAcceptedExactlyWhenValid
  intro c up
  refine ⟨exists_hexToBytes_iff up c, fun b hb => ⟨?_, toNat_getD_hexToBytes up c b hb⟩⟩
  have hlength : c.length = 2 * b.length := length_hexToBytes up c b hb
  omega

end

/-! A host transaction that the queue has reached, by the level of `rst_n` (R204, R230). -/

namespace Sys2Proof.Machine

/-- Out of reset the event is the transaction itself. -/
theorem eventStep_host_of_rstN_high {s : State} (t : Transaction) (hr : s.rstN = true) :
    eventStep (.host t) s = hostStep t s :=
  if_pos hr

/-- In reset no transaction has a step, whatever it addresses. -/
theorem eventStep_host_of_rstN_low {s : State} (t : Transaction) (hr : s.rstN = false) :
    eventStep (.host t) s = .refused .hostTransactionInReset :=
  if_neg (Bool.eq_false_iff.mp hr)

end Sys2Proof.Machine

section

open Sys2Proof Sys2Proof.Machine

/-- Settles O6: the step is the head event's, and taking it from the queue leaves `rst_n` as it was. -/
theorem stepTakesTheNextEvent : Obligations.StepTakesTheNextEvent := by
  unfold Obligations.StepTakesTheNextEvent
  intro s t rest he
  rw [step_cons he]
  constructor
  · intro hr
    exact eventStep_host_of_rstN_high t hr
  · intro hr
    exact eventStep_host_of_rstN_low t hr

end

/-! ## While BUSY = 1 (R240), and the edges of `rst_n` (R230) -/

namespace Sys2Proof.Machine

theorem Reg.readDefinedWhileBusy_iff (r : Reg) :
    r.readDefinedWhileBusy = true ↔ r ∈ [Reg.id, Reg.version, Reg.ctrl, Reg.status] := by
  cases r <;> simp [Reg.readDefinedWhileBusy]

@[simp] theorem Data.size_ofWord (size : AccessSize) (w : Word) : (Data.ofWord size w).size = size := by
  cases size <;> rfl

theorem State.hostReadReg_of_busy {s : State} (hb : s.status.busy = true) {r : Reg}
    (hr : r ∉ [Reg.id, Reg.version, Reg.ctrl, Reg.status]) : s.hostReadReg r = s.respondDraw .four := by
  have hundefined : r.readDefinedWhileBusy = false := Bool.eq_false_iff.mpr (mt r.readDefinedWhileBusy_iff.mp hr)
  simp [State.hostReadReg, hb, hundefined]

theorem State.hostReadDmem_of_busy {s : State} (hb : s.status.busy = true) (a : Nat) (size : AccessSize) :
    s.hostReadDmem a size = s.respondDraw size :=
  if_pos hb

theorem State.hostWriteDmem_of_busy {s : State} (hb : s.status.busy = true) (a : Nat) (d : Data) :
    s.hostWriteDmem a d = s.overrun.respond .written := by
  simp [State.hostWriteDmem, hb]

section

variable {s : State} {a : Nat}

/-- A DMEM read in the form of R65 is admitted, busy or not. -/
theorem hostStep_readDmem {size : AccessSize} (hmod : a % size.bytes = 0)
    (hend : a + size.bytes ≤ s.params.dmemBytes) :
    hostStep (Transaction.dmem a (.read size)) s = .next (s.hostReadDmem a size) := by
  have htarget : target s.params (Transaction.dmem a (.read size)) = .ok (.dmem a) :=
    target_dmem s.params a (.read size) hmod hend
  unfold hostStep
  rw [htarget]
  rfl

/-- A DMEM write in the form of R65 is admitted, busy or not. -/
theorem hostStep_writeDmem {d : Data} (hmod : a % d.size.bytes = 0)
    (hend : a + d.size.bytes ≤ s.params.dmemBytes) :
    hostStep (Transaction.dmem a (.write d)) s = .next (s.hostWriteDmem a d) := by
  have htarget : target s.params (Transaction.dmem a (.write d)) = .ok (.dmem a) :=
    target_dmem s.params a (.write d) hmod hend
  unfold hostStep
  rw [htarget]
  rfl

end

/-- An edge of `rst_n` at the head of the queue is taken, and its level is the new one. -/
theorem step_rstEdge {s : State} {rest : List Event} {level : Bool}
    (he : s.events = (if level then .rstHigh else .rstLow) :: rest) :
    step s = .next (({ s with events := rest } : State).hardReset level) := by
  rw [step_cons he]
  cases level <;> rfl

end Sys2Proof.Machine

section

open Sys2Proof Sys2Proof.Machine

/-- Settles O17: by the rows of R240's table, each admitted access by what the host port does with it while busy. -/
theorem accessesWhileBusy : Obligations.AccessesWhileBusy := by
  unfold Obligations.AccessesWhileBusy
  intro s hb
  refine ⟨fun r hr => ?defined, fun r hr => ⟨Config.freeWord s.draws, ?undefined⟩, fun v => ⟨?ctrl, ?status⟩,
    fun r hr v => ?ignored, fun a k hmod hend => ?dmem, fun t f hf => hostStep_of_error hf⟩
  case defined =>
    rw [hostStep_readReg, State.hostReadReg_of_defined (r.readDefinedWhileBusy_iff.mpr hr)]
    rfl
  case undefined =>
    rw [hostStep_readReg, State.hostReadReg_of_busy hb hr]
    rfl
  case ctrl =>
    rw [hostStep_writeReg, State.hostWriteReg_ctrl]
    rfl
  case status =>
    rw [hostStep_writeReg, State.hostWriteReg_status]
    rfl
  case ignored =>
    obtain ⟨hctrl, hstatus⟩ : r ≠ .ctrl ∧ r ≠ .status := by simpa using hr
    rw [hostStep_writeReg, State.hostWriteReg_of_busy hb, State.writeRegBusy_of_ne hctrl hstatus]
    rfl
  case dmem =>
    cases k with
    | read size =>
      exact ⟨Data.ofWord size (Config.freeWord s.draws), Data.size_ofWord size _,
        (hostStep_readDmem hmod hend).trans (congrArg _ (State.hostReadDmem_of_busy hb a size))⟩
    | write d =>
      exact (hostStep_writeDmem hmod hend).trans (congrArg _ (State.hostWriteDmem_of_busy hb a d))

/-- Settles O23: an edge is `State.hardReset`, which lists no byte of DMEM. -/
theorem hardResetClearsEverything : Obligations.HardResetClearsEverything := by
  unfold Obligations.HardResetClearsEverything
  intro s rest
  constructor
  · intro level he
    exact ⟨_, step_rstEdge he, rfl, fun _ => rfl⟩
  · intro t hr he
    rw [step_cons he]
    exact eventStep_host_of_rstN_low t hr

end
